-- ==== Sys2Proof/Word.lean ====
section
/-!
DEFINITION. The words of the UFM-01 RX protocol block: bytes, byte strings, 12-bit trace words.
-/

namespace Sys2Proof

/-- An unsigned 8-bit value (R9); the wire unit is the byte (R56). -/
abbrev Byte := BitVec 8

/-- A finite sequence of bytes, indexed from zero (R9). A frame is one of these (R15). -/
abbrev ByteString := List Byte

/-- A 12-bit trace word `OP[11:9] M[8] D[7:0]` (R73). -/
abbrev TraceWord := BitVec 12

end Sys2Proof
end

