-- ==== Sys2Proof/Config.lean ====
section
/-!
DEFINITION. The parameters of the block (R6): the frame-format table FMT, the two capacities, P_ACK_EXACT, the
parameters the spec leaves OPEN, and the model's two free values.
-/

namespace Sys2Proof

/-- The three report formats of R59. -/
inductive ReportFormat where
  | activeReport
  | passiveReportWithId
  | passiveReportNoId
deriving DecidableEq, Repr

/-- The four reply formats of R59: the Ack and the three reports. -/
inductive Format where
  | ack
  | report (r : ReportFormat)
deriving DecidableEq, Repr

/-- One report format's row of FMT (R8, R59): its prefix bytes, its minimum length, and the byte offset of every field
(R60, R61, R62). The widths are the spec's for every table (R66): id 5 bytes, accFlow 6, instFlow 4, waterTemp 2,
every other field 1. `idOff` is `none` for a format without identity (R65); that it is part of the table, so that
another table may give or take a format's identity, is the model's choice (DESIGN CHOICE, log 27); so is that the
prefix of another table may have any length (DESIGN CHOICE, log 29). -/
structure ReportLayout where
  lead : ByteString
  minLen : Nat
  idOff : Option Nat
  accFlowFlagOff : Nat
  accFlowOff : Nat
  instFlowFlagOff : Nat
  instFlowOff : Nat
  flowSignOff : Nat
  tempFlagOff : Nat
  waterTempOff : Nat
  status1Off : Nat
  status2Off : Nat
  chkOff : Nat
  stopOff : Nat
deriving DecidableEq, Repr

/-- The configuration record FMT (R8, D17): the Ack prefix and the three report layouts. The four prefixes
may have any length in another table (DESIGN CHOICE, log 29). -/
structure FormatTable where
  ackLead : ByteString
  activeReport : ReportLayout
  passiveReportWithId : ReportLayout
  passiveReportNoId : ReportLayout
deriving DecidableEq, Repr

/-- The row of FMT for a report format. -/
def FormatTable.layout (t : FormatTable) : ReportFormat → ReportLayout
  | .activeReport => t.activeReport
  | .passiveReportWithId => t.passiveReportWithId
  | .passiveReportNoId => t.passiveReportNoId

/-- The source's table, the normative default of FMT (R8): prefixes and lengths of R59, offsets of R60, R61, R62
and R108. -/
def FormatTable.source : FormatTable where
  ackLead := [0xE5]
  activeReport :=
    { lead := [0x3C, 0x32], minLen := 32, idOff := some 2, accFlowFlagOff := 8, accFlowOff := 9,
      instFlowFlagOff := 15, instFlowOff := 16, flowSignOff := 20, tempFlagOff := 24, waterTempOff := 25,
      status1Off := 28, status2Off := 29, chkOff := 30, stopOff := 31 }
  passiveReportWithId :=
    { lead := [0x3C, 0x96], minLen := 39, idOff := some 2, accFlowFlagOff := 8, accFlowOff := 9,
      instFlowFlagOff := 22, instFlowOff := 23, flowSignOff := 27, tempFlagOff := 31, waterTempOff := 32,
      status1Off := 35, status2Off := 36, chkOff := 37, stopOff := 38 }
  passiveReportNoId :=
    { lead := [0x3C, 0x64], minLen := 23, idOff := none, accFlowFlagOff := 2, accFlowOff := 3,
      instFlowFlagOff := 9, instFlowOff := 10, flowSignOff := 14, tempFlagOff := 15, waterTempOff := 16,
      status1Off := 19, status2Off := 20, chkOff := 21, stopOff := 22 }

/-- The parameters a model takes and holds constant between resets (R6, R54, U22). -/
structure Config where
  /-- FRAME_CAP: capacity of `buf` in bytes, `none` for unbounded (D4). -/
  frameCap : Option Nat
  /-- QUEUE_CAP: capacity of `q` in frames, `none` for unbounded (D5). -/
  queueCap : Option Nat
  /-- P_ACK_EXACT: an Ack is a frame of exactly one byte (D6, C4). -/
  ackExact : Bool
  /-- FMT: the frame-format table (D17). -/
  fmt : FormatTable
deriving DecidableEq, Repr

/-- The values R6 takes by default. -/
def Config.default : Config where
  frameCap := none
  queueCap := none
  ackExact := true
  fmt := .source

/-- FP_READING: which number a fixed-point raw value denotes (R6, R124). -/
inductive FpReading where
  | binaryFraction
  | decimalDigits
deriving DecidableEq, Repr, Inhabited

/-- FP_READING is OPEN and no output of the block depends on it (R124, D18). Log 17. -/
opaque Config.fpReading : FpReading

/-- T_IDLE, the channel's read timeout, is OPEN and is not modelled as time (R6, R101, D16). Log 16. -/
opaque Config.tIdle : Nat

/-- OP_SET_MODE_PASSIVE, OPEN (R6, R86, D19). Log 17. -/
opaque Config.opSetModePassive : Byte × Byte

/-- OP_SET_MODE_ACTIVE, OPEN (R6, R86, D19). Log 17. -/
opaque Config.opSetModeActive : Byte × Byte

/-- OP_CLEAR_ACC, OPEN (R6, R86, D19). Log 17. -/
opaque Config.opClearAcc : Byte × Byte

/-- OP_RESET, OPEN (R6, R86, D19). Log 17. -/
opaque Config.opReset : Byte × Byte

/-- OP_READ_WITH_ID, OPEN (R6, R86, D19). Log 17. -/
opaque Config.opReadWithId : Byte × Byte

/-- OP_READ_NO_ID, `0x5B 0x0F` (R6, R86). -/
def Config.opReadNoId : Byte × Byte := (0x5B, 0x0F)

/-- FREE VALUE (log 25): the sum over `F[0 .. len(F)-2]` of a frame of fewer than 2 bytes. R83 gives the range for
frames of at least 2 bytes only, so only a format table with a report of minimum length below 2 can meet it. -/
opaque Config.sumOfShortFrame : ByteString → Byte

/-- FREE VALUE (log 10): the byte read at an offset at or beyond the frame's end. `MemRead` is defined only within
the frame (R13) and the FD never reads outside it (R44), so only a format table that breaks R44 can meet it. -/
opaque Config.byteBeyondFrame : ByteString → Nat → Byte

end Sys2Proof
end

