-- ==== Sys2Proof/Machine/Results.lean ====
section
/-!
DEFINITION. What the block hands out: the Reading record (R78), the DECODE results (R77), the advisory interpretation
beside a reading (43_interpretation.md), and the codes of formats and results (R59, R77).
-/

namespace Sys2Proof.Machine

/-- The identity of a report that carries one (R65, R67, R125). -/
structure Identity where
  deviceManufData : BitVec 24
  serialNumber : BitVec 16
deriving DecidableEq, Repr

/-- The Reading record of a report result (R78): every field unsigned and raw. -/
structure Reading where
  identity : Option Identity
  accFlowFlag : BitVec 8
  accFlowRaw : BitVec 48
  instFlowFlag : BitVec 8
  instFlowRaw : BitVec 32
  flowSign : BitVec 8
  tempFlag : BitVec 8
  waterTempRaw : BitVec 16
  status1 : BitVec 8
  status2 : BitVec 8
  validChecksum : Bool
  validStopByte : Bool
deriving DecidableEq, Repr

/-- A DECODE result (R77). `validationFailed` carries the format and the two flags and no field (R110). -/
inductive DecodeResult where
  | ack
  | activeReport (r : Reading)
  | passiveReportWithId (r : Reading)
  | passiveReportNoId (r : Reading)
  | validationFailed (format : ReportFormat) (validChecksum validStopByte : Bool)
  | unrecognizedFrame
deriving DecidableEq, Repr

/-- The accumulated-flow unit (R117). -/
inductive AccUnit where
  | liters
  | cubicMeters
  | unknown
deriving DecidableEq, Repr

/-- The accumulated flow where it is present: the raw value, its unit and its split (R116, R117, R120). -/
structure AccFlow where
  raw : BitVec 48
  unit : AccUnit
  int : BitVec 36
  frac : BitVec 12
deriving DecidableEq, Repr

/-- The instantaneous flow where it is present: raw value, sign and split (R116, R118, R121, R122). -/
structure InstFlow where
  raw : BitVec 32
  negative : Bool
  int : BitVec 24
  frac : BitVec 8
deriving DecidableEq, Repr

/-- The water temperature where it is present: raw value and split (R116, R119, R123). -/
structure WaterTemp where
  raw : BitVec 16
  int : BitVec 8
  frac : BitVec 8
deriving DecidableEq, Repr

/-- The combinational outputs beside a Reading record (D21): an absent field is `none`, never a number (R116). -/
structure Interpretation where
  identity : Option Identity
  accFlow : Option AccFlow
  instFlow : Option InstFlow
  waterTemp : Option WaterTemp
  emptyTube : Bool
  chipError : Bool
  wrongDirection : Bool
  rateOutOfRange : Bool
deriving DecidableEq, Repr

/-- Format codes (R59). -/
def formatCode : Format → BitVec 3
  | .ack => 0
  | .report .activeReport => 1
  | .report .passiveReportWithId => 2
  | .report .passiveReportNoId => 3

/-- The 3-bit kind code of a result (R77). -/
def kindCode : DecodeResult → BitVec 3
  | .ack => 0
  | .activeReport _ => 1
  | .passiveReportWithId _ => 2
  | .passiveReportNoId _ => 3
  | .validationFailed _ _ _ => 4
  | .unrecognizedFrame => 5

/-- The reading a result carries, none but for the three reports (R77, R110). -/
def readingOf : DecodeResult → Option Reading
  | .ack => none
  | .activeReport r => some r
  | .passiveReportWithId r => some r
  | .passiveReportNoId r => some r
  | .validationFailed _ _ _ => none
  | .unrecognizedFrame => none

/-- A report format's result with a reading (R110). -/
def reportKind : ReportFormat → Reading → DecodeResult
  | .activeReport => .activeReport
  | .passiveReportWithId => .passiveReportWithId
  | .passiveReportNoId => .passiveReportNoId

end Sys2Proof.Machine
end

