-- ==== Sys2Proof/Syntax.lean ====
section
/-!
DEFINITION. The operations of the block, one constructor per row of spec/opcode_table.json (R2, R59, R74, R75,
R85), and the codes in which they are presented.
-/

namespace Sys2Proof

/-- The operations of the block: the trace-word operations (R74), the read of several bytes (R92), the words R75(a)
refuses, the rows of the classification map (R59, R70), and the command frame of the transmit side (R85). -/
inductive Instr where
  /-- RX_BYTE(M, d), R93. `more` is M. -/
  | rxByte (more : Bool) (d : Byte)
  /-- RX_CHUNK(bs), R92. -/
  | rxChunk (bs : ByteString)
  /-- RX_TIMEOUT, R94. -/
  | rxTimeout
  /-- STOP, R95. -/
  | stop
  /-- POP, R96. -/
  | pop
  /-- DECODE(F), R103. -/
  | decode (F : ByteString)
  /-- CHECKSUM(bs), R81. -/
  | checksum (bs : ByteString)
  /-- ASM_ISSUE, R89. -/
  | asmIssue
  /-- ASM_HALT, R90. -/
  | asmHalt
  /-- A word with `OP ≠ 000` and `M` or `D` non-zero, R75(a). -/
  | refusedWord (w : TraceWord)
  /-- A frame the classification map gives to ActiveReport, R59 row 1, R70. -/
  | frameActiveReport (F : ByteString)
  /-- A frame the classification map gives to Ack, R59 row 2, R105. -/
  | frameAck (F : ByteString)
  /-- A frame the classification map gives to PassiveReportWithId, R59 row 3, R70. -/
  | framePassiveReportWithId (F : ByteString)
  /-- A frame the classification map gives to PassiveReportNoId, R59 row 4, R70. -/
  | framePassiveReportNoId (F : ByteString)
  /-- A frame the classification map gives to no format, R107. -/
  | frameUnrecognised (F : ByteString)
  /-- CMD(hi, lo): the 7-byte command frame, R58, R85. -/
  | cmd (hi lo : Byte)
deriving DecidableEq, Repr

/-- The form in which an operation is presented (log 14): a trace word with its out-of-band operand (R73, R76), the
RX_BYTE words of one whole read (R74, R80), a reply frame at the FD's input (R70), or a command frame (R58). -/
inductive Code where
  | word (w : TraceWord) (operand : ByteString)
  | read (ws : List TraceWord)
  | frame (F : ByteString)
  | command (bs : ByteString)
deriving DecidableEq, Repr

end Sys2Proof
end

