-- ==== Sys2Proof/Machine/State.lean ====
section
/-!
DEFINITION. The state of the block (10_state.md), the inputs it takes, what it hands out, and the reasons a step can
stop. Plain data.
-/

namespace Sys2Proof.Machine

/-- The FA loop phase (R21). -/
inductive Phase where
  | top
  | inRead
  | halted
deriving DecidableEq, Repr

/-- The two faults of R129. -/
inductive FaultBit where
  /-- BUF_OVF. -/
  | bufOvf
  /-- Q_OVF. -/
  | qOvf
deriving DecidableEq, Repr

/-- One input, in the order in which it is taken (log 1). -/
inductive Input where
  /-- An operation in its code (R70, R73, R76). -/
  | operation (c : Code)
  /-- `decode <popped>`: DECODE of the frame the last POP returned, nothing if it returned none (R80, log 22). -/
  | decodePopped
  /-- A write of the control word (R30). -/
  | writeCtrl (v : Byte)
  /-- A sample of the status word (R29). -/
  | sampleStatus
  /-- The reset signal (R142). -/
  | reset
deriving DecidableEq, Repr

/-- What the block handed out or did, for the log (R145, log 8). -/
inductive Event where
  /-- RX_TIMEOUT pushed this frame (R94). -/
  | pushed (F : ByteString)
  /-- POP returned this (R96). -/
  | popped (r : Option ByteString)
  /-- DECODE of this frame returned this, with the outputs beside its reading (R103, D21). -/
  | decoded (F : ByteString) (r : DecodeResult) (advisory : Option Interpretation)
  /-- A FRAME row on this frame returned this, with the outputs beside its reading (log 11, D21). -/
  | classified (F : ByteString) (r : DecodeResult) (advisory : Option Interpretation)
  /-- CHECKSUM returned this (R81). -/
  | summed (b : Byte)
  /-- CMD built this (R85). -/
  | commanded (bs : ByteString)
  /-- STATUS was sampled (R31). -/
  | status (b : Byte)
  /-- Reset was asserted (R142). -/
  | wasReset
deriving DecidableEq, Repr

/-- The machine. The first seven fields are the spec's state elements; `midRead` is what R75(b) asks of the previous
word; `cfg` holds the parameters (R6); `trace` and `log` are the model's own (log 1, log 8). -/
structure State where
  /-- The FA accumulation buffer (R20). -/
  buf : ByteString
  /-- The FA loop phase (R21). -/
  phase : Phase
  /-- The cooperative stop flag (R22). -/
  stopReq : Bool
  /-- The hand-off queue, head first (R23). -/
  q : List ByteString
  /-- Sticky fault bit BUF_OVF (R24). -/
  fBufOvf : Bool
  /-- Sticky fault bit Q_OVF (R24). -/
  fQOvf : Bool
  /-- The sticky refusal mark (R25). -/
  refused : Bool
  /-- The previous word was an RX_BYTE with `M = 1` (R75(b), R93, R94; log 2). -/
  midRead : Bool
  /-- The parameters, constant between resets (R6, U22; log 9). -/
  cfg : Config
  /-- The inputs not yet taken, the next one first (log 1). -/
  trace : List Input
  /-- What has happened, oldest first (log 8). -/
  log : List Event
deriving DecidableEq, Repr

/-- Reasons a step has no next state. -/
inductive Fault where
  /-- Raised by a meaning whose enabling condition does not hold: the trace is stuck at that word and describes no run
  of the block (R75, U19). Safe: the model stops. -/
  | notEnabled
  /-- Raised by a meaning while a fault bit is set: no agent has a further step (R130). Safe: the model stops. -/
  | quiescent
deriving DecidableEq, Repr

/-- Reasons a step gives an input no meaning. -/
inductive Refusal where
  /-- Raised by exec's arm for an instruction that has no meaning yet. Safe: the model stops. -/
  | notModelled (mnemonic : String)
  /-- Raised by the step on words presented as one read that are not RX_BYTE words with `M = 1` on all but the last
  (log 14). Safe: the model stops. -/
  | malformedRead
  /-- Raised by the step on bytes presented as a command frame that are none of R58 (log 14). Safe: the model
  stops. -/
  | malformedCommand
deriving DecidableEq, Repr

/-- The machine right after reset with the given parameters and inputs (R36, R142). -/
def State.resetWith (cfg : Config) (trace : List Input) : State where
  buf := []
  phase := .top
  stopReq := false
  q := []
  fBufOvf := false
  fQOvf := false
  refused := false
  midRead := false
  cfg := cfg
  trace := trace
  log := []

/-- The machine right after reset (R36): the default parameters (R6), no input placed. -/
def State.reset : State := .resetWith .default []

end Sys2Proof.Machine
end

