-- ==== Sys2Proof/Machine/Ops.lean ====
section
/-!
DEFINITION. The named operations on the state: raising a fault and resetting, refusing a word, the enabling gates, the
frame assembler's buffer and loop, the hand-off queue, the log.
-/

namespace Sys2Proof.Machine

/-- The outcome of an operation. -/
abbrev Result := Host.Outcome State Fault Refusal

/-- Some fault bit is set. -/
def State.faulted (s : State) : Bool := s.fBufOvf || s.fQOvf

/-- The state with fault bit `k` set and nothing else changed (R130, R134). -/
def State.setFault (k : FaultBit) (s : State) : State :=
  match k with
  | .bufOvf => { s with fBufOvf := true }
  | .qOvf => { s with fQOvf := true }

/-- `raise Fault(k)`: the faulting step writes its fault bit and nothing else; no state is saved and control goes
nowhere (R13, R130, R134). -/
def raiseFault (k : FaultBit) (s : State) : Result := .next (s.setFault k)

/-- Reset, the only way out of a fault: every state element at its reset value (R36, R135, R142). The parameters, the
inputs still to come and the log lie outside the block (log 19). -/
def State.afterReset (s : State) : State :=
  { s with
    buf := [], phase := .top, stopReq := false, q := [], fBufOvf := false, fQOvf := false, refused := false,
    midRead := false, log := s.log ++ [.wasReset] }

/-- `refused <- true` and nothing else (R25, R75; log 3). -/
def State.markRefused (s : State) : State := { s with refused := true }

/-- The next input is taken. -/
def State.withTrace (s : State) (t : List Input) : State := { s with trace := t }

/-- An event is added to the log. -/
def State.emit (e : Event) (s : State) : State := { s with log := s.log ++ [e] }

/-- A step of an agent: none while a fault bit is set (R130), stuck where its enabling condition fails (R75, U19). -/
def whenEnabled (s : State) (enabled : Bool) (act : State → Result) : Result :=
  if s.faulted then .fault .quiescent
  else if enabled then act s
  else .fault .notEnabled

/-- A trace word other than RX_BYTE: refused in the middle of a read (R75(b)), else a step of its agent. -/
def atWord (s : State) (enabled : Bool) (act : State → Result) : Result :=
  if s.midRead then .next s.markRefused else whenEnabled s enabled act

/-- `FRAME_CAP ≠ none ∧ len(buf) + n > FRAME_CAP` (R92, R93, R129). -/
def State.bufferOverflows (s : State) (n : Nat) : Bool :=
  match s.cfg.frameCap with
  | none => false
  | some c => decide (c < s.buf.length + n)

/-- `QUEUE_CAP ≠ none ∧ len(q) = QUEUE_CAP` (R94, R129). -/
def State.queueFull (s : State) : Bool :=
  match s.cfg.queueCap with
  | none => false
  | some c => decide (s.q.length = c)

/-- The previous word becomes an RX_BYTE with this `M` (R75(b), log 2). -/
def State.noteRead (more : Bool) (s : State) : State := { s with midRead := more }

/-- `buf <- buf ++ bs`, and `phase <- TOP` where the read is complete (R92, R93). -/
def State.append (bs : ByteString) (more : Bool) (s : State) : State :=
  { s with buf := s.buf ++ bs, phase := if more then s.phase else .top, midRead := more }

/-- A read returned bytes: the capacity check comes before the append (R92, R93, R133). -/
def receive (bs : ByteString) (more : Bool) (s : State) : Result :=
  if s.bufferOverflows bs.length then raiseFault .bufOvf (s.noteRead more) else .next (s.append bs more)

/-- `phase <- TOP`: the read ends with nothing to emit (R94). -/
def State.endEmptyRead (s : State) : State := { s with phase := .top }

/-- `q <- q ++ [buf]; buf <- []; phase <- TOP`: the frame is pushed whole at the tail (R45, R94). -/
def State.pushFrame (s : State) : State :=
  { s with q := s.q ++ [s.buf], buf := [], phase := .top, log := s.log ++ [.pushed s.buf] }

/-- An empty read: nothing where the buffer is empty; else the capacity check and the push (R94, R133). -/
def endRead (s : State) : Result :=
  if s.buf = [] then .next s.endEmptyRead
  else if s.queueFull then raiseFault .qOvf s
  else .next s.pushFrame

/-- POP: the head of the queue, or none, without waiting (R45, R48, R96). -/
def State.popFrame (s : State) : State :=
  match s.q with
  | [] => { s with log := s.log ++ [.popped none] }
  | F :: rest => { s with q := rest, log := s.log ++ [.popped (some F)] }

/-- `phase <- IN_READ` (R89). -/
def State.issueRead (s : State) : State := { s with phase := .inRead }

/-- `buf <- []; phase <- HALTED` (R90). -/
def State.haltLoop (s : State) : State := { s with buf := [], phase := .halted }

/-- `stopReq <- true` (R95). A second STOP changes nothing: R95 calls STOP idempotent, R46 does not list it among the
idempotent operations, and the model follows R95 (DEDUCED, log 26). -/
def State.requestStop (s : State) : State := { s with stopReq := true }

/-- The frame the last POP returned, none if it returned none or there was no POP (R80, log 22). -/
def lastPopped (log : List Event) : Option ByteString :=
  log.foldl (fun acc e => match e with
    | .popped r => r
    | _ => acc) none

end Sys2Proof.Machine
end

