-- ==== Sys2Proof/Machine/Assembler.lean ====
section
/-!
DEFINITION. The Frame Assembler, the hand-off queue and the stop flag (41_assembler.md), and the words R75(a) refuses.
-/

namespace Sys2Proof.Machine

/-- ASM_ISSUE (R89): enabled when `phase = TOP ∧ stopReq = false`. -/
def execAsmIssue (s : State) : Result :=
  atWord s (decide (s.phase = .top) && !s.stopReq) fun s => .next s.issueRead

/-- ASM_HALT (R90): enabled when `phase = TOP ∧ stopReq = true`. -/
def execAsmHalt (s : State) : Result :=
  atWord s (decide (s.phase = .top) && s.stopReq) fun s => .next s.haltLoop

/-- RX_CHUNK(bs), `len(bs) ≥ 1` (R92): enabled when `phase = IN_READ`. Its words are RX_BYTE words, so it is accepted
in the middle of a read (R75(b)). -/
def execRxChunk (bs : ByteString) (s : State) : Result :=
  whenEnabled s (decide (s.phase = .inRead) && !bs.isEmpty) (receive bs false)

/-- RX_BYTE(M, d) (R93): enabled when `phase = IN_READ`. -/
def execRxByte (more : Bool) (d : Byte) (s : State) : Result :=
  whenEnabled s (decide (s.phase = .inRead)) (receive [d] more)

/-- RX_TIMEOUT (R94): enabled when `phase = IN_READ`. -/
def execRxTimeout (s : State) : Result := atWord s (decide (s.phase = .inRead)) endRead

/-- STOP (R95): always enabled. -/
def execStop (s : State) : Result := atWord s true fun s => .next s.requestStop

/-- POP (R96): always enabled, never blocks. -/
def execPop (s : State) : Result := atWord s true fun s => .next s.popFrame

/-- A word of R75(a): `refused <- true` and no other step (R25; log 3). -/
def execRefusedWord (_w : TraceWord) (s : State) : Result := .next s.markRefused

end Sys2Proof.Machine
end

