-- ==== Sys2Proof/Machine/Operands.lean ====
section
/-!
DEFINITION. Reading the frame operand: single bytes, little-endian fields, the identity split (R10, R11, R38, R66,
R67).
-/

namespace Sys2Proof.Machine

/-- `F[i]` (R9). Beyond the frame's end a free byte (log 10): `MemRead` is not defined there (R13). -/
def byteAt (F : ByteString) (i : Nat) : Byte :=
  match F[i]? with
  | some b => b
  | none => Config.byteBeyondFrame F i

/-- `LE(F, a, a + n)`: the byte at the lower offset is the less significant (R11, R38). -/
def le (F : ByteString) (a : Nat) : Nat → Nat
  | 0 => 0
  | n + 1 => (byteAt F a).toNat + 256 * le F (a + 1) n

/-- A 16-bit field of 2 bytes (R43, R66). -/
def field16 (F : ByteString) (a : Nat) : BitVec 16 := BitVec.ofNat 16 (le F a 2)

/-- A 32-bit field of 4 bytes (R43, R66). -/
def field32 (F : ByteString) (a : Nat) : BitVec 32 := BitVec.ofNat 32 (le F a 4)

/-- A 40-bit field of 5 bytes (R43, R66). -/
def field40 (F : ByteString) (a : Nat) : BitVec 40 := BitVec.ofNat 40 (le F a 5)

/-- A 48-bit field of 6 bytes (R43, R66). -/
def field48 (F : ByteString) (a : Nat) : BitVec 48 := BitVec.ofNat 48 (le F a 6)

/-- `serialNumber = id & 0xFFFF` (R67, R108). -/
def serialOf (id : BitVec 40) : BitVec 16 := id.extractLsb' 0 16

/-- `deviceManufData = id >> 16` (R67, R108). -/
def manufOf (id : BitVec 40) : BitVec 24 := id.extractLsb' 16 24

end Sys2Proof.Machine
end

