-- ==== Sys2Proof/Machine/Cve.lean ====
section
/-!
DEFINITION. The Checksum/Validation Engine (40_checksum.md): the 8-bit truncated sum, the two checks built on it, and
its second use, the command frames of the transmit side.
-/

namespace Sys2Proof.Machine

/-- `sum8(bs)`: an 8-bit accumulator, the carry out of bit 7 discarded at every step (R14, R81). -/
def sum8 (bs : ByteString) : Byte := bs.foldl (fun acc b => acc + b) 0

/-- `sum8(F[0 .. len(F)-2])`, all bytes but the final two (R10, R83). R83 takes frames of at least 2 bytes; of a
shorter one the sum is a free value (log 25). -/
def checkedSum (F : ByteString) : Byte :=
  if 2 ≤ F.length then sum8 (F.take (F.length - 2)) else Config.sumOfShortFrame F

/-- `VALID_CHECKSUM(F, c) = (F[c] = sum8(F[0 .. len(F)-2]))` (R83, R109). The spec gives no value for a frame of fewer
than 2 bytes: there the sum compared with is free (log 25). -/
def checksumHolds (F : ByteString) (c : Nat) : Bool := byteAt F c == checkedSum F

/-- `VALID_STOP(F, s) = (F[s] = 0x16)` (R84). -/
def stopHolds (F : ByteString) (s : Nat) : Bool := byteAt F s == 0x16

/-- `CMD(hi, lo)`: markers, start byte, opcode high byte first, checksum over start byte and opcode, stop byte (R40,
R58, R85). -/
def commandFrame (hi lo : Byte) : ByteString := [0xFE, 0xFE, 0x11, hi, lo, sum8 [0x11, hi, lo], 0x16]

/-- The six commands the source implies (R86). -/
inductive Command where
  | setModePassive
  | setModeActive
  | clearAccumulator
  | resetDevice
  | readWithId
  | readWithoutId
deriving DecidableEq, Repr

/-- A command's opcode, high byte and low byte: one is in the source, five are OPEN (R86, D19). -/
def commandOpcode : Command → Byte × Byte
  | .setModePassive => Config.opSetModePassive
  | .setModeActive => Config.opSetModeActive
  | .clearAccumulator => Config.opClearAcc
  | .resetDevice => Config.opReset
  | .readWithId => Config.opReadWithId
  | .readWithoutId => Config.opReadNoId

/-- The frame of a named command: "All four share one assembly rule" (R85, R86). -/
def buildCommand (c : Command) : ByteString := commandFrame (commandOpcode c).1 (commandOpcode c).2

end Sys2Proof.Machine
end

