-- ==== Sys2Proof/Machine/Checksum.lean ====
section
/-!
DEFINITION. The meanings of CHECKSUM (R81) and of the transmit side's CMD (R85).
-/

namespace Sys2Proof.Machine

/-- CHECKSUM(bs) (R81): pure and total, no state of the block changes. -/
def execChecksum (bs : ByteString) (s : State) : Result :=
  atWord s true fun s => .next (s.emit (.summed (sum8 bs)))

/-- CMD(hi, lo) (R85): total and side-effect-free, outside the block, so in every state (log 12). -/
def execCmd (hi lo : Byte) (s : State) : Result := .next (s.emit (.commanded (commandFrame hi lo)))

end Sys2Proof.Machine
end

