-- ==== Sys2Proof/WellFormed.lean ====
section
/-!
DEFINITION. Which operations and which format tables the spec admits.
-/

namespace Sys2Proof

/-- Every offset of a layout lies below its minimum length (R44, R108), which is at least the 2 bytes the checksum
range leaves out (R83). It does not ask that a layout has an identity exactly where R65 and R125
give its format one in the source's table (DESIGN CHOICE, log 27), nor that the field ranges do not overlap, as R41
says of the source's layouts (DESIGN CHOICE, log 28). Of the prefix it asks only that the minimum length covers it:
the prefix may be empty or longer than the one or two bytes of R72 and R104 (DESIGN CHOICE, log 29). The checksum and
stop bytes need not be the last two of a minimum-length frame, as R83 has them (DESIGN CHOICE, log 30). -/
def ReportLayout.wellFormed (L : ReportLayout) : Bool :=
  decide (2 ≤ L.minLen) && decide (L.lead.length ≤ L.minLen)
    && (match L.idOff with
        | none => true
        | some o => decide (o + 5 ≤ L.minLen))
    && decide (L.accFlowFlagOff < L.minLen) && decide (L.accFlowOff + 6 ≤ L.minLen)
    && decide (L.instFlowFlagOff < L.minLen) && decide (L.instFlowOff + 4 ≤ L.minLen)
    && decide (L.flowSignOff < L.minLen) && decide (L.tempFlagOff < L.minLen)
    && decide (L.waterTempOff + 2 ≤ L.minLen) && decide (L.status1Off < L.minLen)
    && decide (L.status2Off < L.minLen) && decide (L.chkOff < L.minLen) && decide (L.stopOff < L.minLen)

/-- All three layouts are well formed. Nothing is asked of the Ack prefix: it may have any length (DESIGN CHOICE,
log 29). -/
def FormatTable.wellFormed (t : FormatTable) : Bool :=
  t.activeReport.wellFormed && t.passiveReportWithId.wellFormed && t.passiveReportNoId.wellFormed

/-- A frame matches a prefix iff it begins with it (R68). -/
def hasLead (lead F : ByteString) : Bool := lead.isPrefixOf F

/-- The frames row ActiveReport takes (R70). -/
def isActiveReport (cfg : Config) (F : ByteString) : Bool :=
  hasLead cfg.fmt.activeReport.lead F && decide (cfg.fmt.activeReport.minLen ≤ F.length)

/-- The frames row Ack takes: no earlier prefix matches, the Ack prefix does, and the frame is one byte long where
P_ACK_EXACT asks it (R104, R105). -/
def isAck (cfg : Config) (F : ByteString) : Bool :=
  !hasLead cfg.fmt.activeReport.lead F && hasLead cfg.fmt.ackLead F
    && (!cfg.ackExact || decide (F.length = 1))

/-- The frames row PassiveReportWithId takes (R104, R106). -/
def isPassiveReportWithId (cfg : Config) (F : ByteString) : Bool :=
  !hasLead cfg.fmt.activeReport.lead F && !hasLead cfg.fmt.ackLead F
    && hasLead cfg.fmt.passiveReportWithId.lead F && decide (cfg.fmt.passiveReportWithId.minLen ≤ F.length)

/-- The frames row PassiveReportNoId takes (R104, R106). -/
def isPassiveReportNoId (cfg : Config) (F : ByteString) : Bool :=
  !hasLead cfg.fmt.activeReport.lead F && !hasLead cfg.fmt.ackLead F
    && !hasLead cfg.fmt.passiveReportWithId.lead F
    && hasLead cfg.fmt.passiveReportNoId.lead F && decide (cfg.fmt.passiveReportNoId.minLen ≤ F.length)

/-- The operations the spec gives under a configuration: a read returns at least one byte (R92), a refused word is
one of R75(a), and a frame belongs to its row of the classification map (R70, R107). -/
def Instr.wellFormed (cfg : Config) : Instr → Bool
  | .rxByte _ _ => true
  | .rxChunk bs => !bs.isEmpty
  | .rxTimeout => true
  | .stop => true
  | .pop => true
  | .decode _ => true
  | .checksum _ => true
  | .asmIssue => true
  | .asmHalt => true
  | .refusedWord w => decide (w >>> 9 ≠ 0) && decide (w &&& 0x1FF ≠ 0)
  | .frameActiveReport F => isActiveReport cfg F
  | .frameAck F => isAck cfg F
  | .framePassiveReportWithId F => isPassiveReportWithId cfg F
  | .framePassiveReportNoId F => isPassiveReportNoId cfg F
  | .frameUnrecognised F =>
    !isActiveReport cfg F && !isAck cfg F && !isPassiveReportWithId cfg F && !isPassiveReportNoId cfg F
  | .cmd _ _ => true

end Sys2Proof
end

