-- ==== Sys2Proof/Decode.lean ====
section
/-!
DEFINITION. Decoding what is presented to the block into an operation (R70, R73 to R76, R104) and encoding an
operation (R73, R74, R79, R80).
-/

namespace Sys2Proof

/-- Why a code is no operation of the spec (log 14). -/
inductive DecodeError where
  /-- The words of one read are not RX_BYTE words with `M = 1` on all but the last (R74). -/
  | malformedRead
  /-- The bytes are not a command frame of R58. -/
  | malformedCommand
deriving DecidableEq, Repr

/-- `OP = w[11:9]` (R73). -/
def opField (w : TraceWord) : Nat := (w.extractLsb' 9 3).toNat

/-- `M = w[8]` (R73). -/
def moreField (w : TraceWord) : Bool := w.getLsbD 8

/-- `D = w[7:0]` (R73). -/
def dataField (w : TraceWord) : Byte := w.extractLsb' 0 8

/-- One trace word (R73, R74); a word with `OP ≠ 000` and `M` or `D` non-zero is refused (R75(a)). The operand beside
the word is used by DECODE and CHECKSUM only (R76, log 15). -/
def decodeWord (w : TraceWord) (operand : ByteString) : Instr :=
  if opField w = 0 then .rxByte (moreField w) (dataField w)
  else if moreField w || dataField w ≠ 0 then .refusedWord w
  else
    match opField w with
    | 1 => .rxTimeout
    | 2 => .stop
    | 3 => .pop
    | 4 => .decode operand
    | 5 => .checksum operand
    | 6 => .asmIssue
    | _ => .asmHalt

/-- The data bytes of one whole read: RX_BYTE words, `M = 1` on all but the last (R74). -/
def readBytes : List TraceWord → Option ByteString
  | [] => none
  | [w] => if opField w = 0 && !moreField w then some [dataField w] else none
  | w :: w' :: ws =>
    if opField w = 0 && moreField w then (readBytes (w' :: ws)).map (dataField w :: ·) else none

/-- A command frame of R58, its checksum included. -/
def decodeCommand : ByteString → Option Instr
  | [m0, m1, start, hi, lo, chk, stp] =>
    if [m0, m1, start, hi, lo, chk, stp] = Machine.commandFrame hi lo then some (.cmd hi lo) else none
  | _ => none

/-- The classification order of R59 and R104. -/
def classificationOrder : List Format :=
  [.report .activeReport, .ack, .report .passiveReportWithId, .report .passiveReportNoId]

/-- A format's prefix in FMT. -/
def FormatTable.leadOf (t : FormatTable) : Format → ByteString
  | .ack => t.ackLead
  | .report r => (t.layout r).lead

/-- A frame matches a prefix of length `k` iff it has at least `k` bytes and its first `k` are the prefix (R68). -/
def matchesLead (lead F : ByteString) : Bool := decide (lead.length ≤ F.length) && F.take lead.length == lead

/-- First match wins, in the classification order (R104). It reads as many bytes as the prefixes of the table are long:
`F[0]` and `F[1]` under the source's table, further ones where another table has a longer prefix (DESIGN CHOICE,
log 29). -/
def classify (t : FormatTable) (F : ByteString) : Option Format :=
  classificationOrder.find? fun f => matchesLead (t.leadOf f) F

/-- The row of a report format. -/
def frameOfReport : ReportFormat → ByteString → Instr
  | .activeReport => .frameActiveReport
  | .passiveReportWithId => .framePassiveReportWithId
  | .passiveReportNoId => .framePassiveReportNoId

/-- The classification map of R70: a frame's row, with the length condition of the row. -/
def decodeFrameRow (cfg : Config) (F : ByteString) : Instr :=
  match classify cfg.fmt F with
  | none => .frameUnrecognised F
  | some .ack => if cfg.ackExact && decide (F.length ≠ 1) then .frameUnrecognised F else .frameAck F
  | some (.report r) =>
    if F.length < (cfg.fmt.layout r).minLen then .frameUnrecognised F else frameOfReport r F

/-- The decoder, total over every code. -/
def decode (cfg : Config) : Code → Except DecodeError Instr
  | .word w operand => .ok (decodeWord w operand)
  | .read ws =>
    match readBytes ws with
    | some bs => .ok (.rxChunk bs)
    | none => .error .malformedRead
  | .frame F => .ok (decodeFrameRow cfg F)
  | .command bs =>
    match decodeCommand bs with
    | some i => .ok i
    | none => .error .malformedCommand

/-- The trace word with these three fields (R73). -/
def mkWord (op : BitVec 3) (more : Bool) (d : Byte) : TraceWord := op ++ BitVec.ofBool more ++ d

/-- A chunk as RX_BYTE words, the first with `M = 1`, the last with `M = 0` (R74, R80). -/
def readWords : ByteString → List TraceWord
  | [] => []
  | [b] => [mkWord 0 false b]
  | b :: b' :: bs => mkWord 0 true b :: readWords (b' :: bs)

/-- The code of an operation (R58, R73, R74, R79, R80). -/
def encode : Instr → Code
  | .rxByte more d => .word (mkWord 0 more d) []
  | .rxChunk bs => .read (readWords bs)
  | .rxTimeout => .word (mkWord 1 false 0) []
  | .stop => .word (mkWord 2 false 0) []
  | .pop => .word (mkWord 3 false 0) []
  | .decode F => .word (mkWord 4 false 0) F
  | .checksum bs => .word (mkWord 5 false 0) bs
  | .asmIssue => .word (mkWord 6 false 0) []
  | .asmHalt => .word (mkWord 7 false 0) []
  | .refusedWord w => .word w []
  | .frameActiveReport F => .frame F
  | .frameAck F => .frame F
  | .framePassiveReportWithId F => .frame F
  | .framePassiveReportNoId F => .frame F
  | .frameUnrecognised F => .frame F
  | .cmd hi lo => .command (Machine.commandFrame hi lo)

/-- The `n` lowest groups of `width` bits of `w`, lowest first. -/
def groups (width : Nat) : Nat → Nat → List Nat
  | 0, _ => []
  | n + 1, w => w % 2 ^ width :: groups width n (w / 2 ^ width)

/-- The frame a number `h = F[0]·256 + F[1]` of the classification map stands for (R70): the one byte `F[0]` where
that is the whole Ack prefix (`F[1]` may be absent), else both bytes and zeros up to 39 bytes, the longest minimum
length (log 13). -/
def frameOfNumber (h : Nat) : ByteString :=
  let b0 : Byte := BitVec.ofNat 8 (h / 256)
  let b1 : Byte := BitVec.ofNat 8 h
  if Config.default.fmt.ackLead = [b0] then [b0] else b0 :: b1 :: List.replicate 37 0

/-- The code of an opcode-table row whose bits are `w` (log 13): up to 16 bits, a 12-bit trace word where the number
fits in one, else a frame number; 56 bits, the 7 bytes of a command frame; else the words of one read, 16 bits each. -/
def tableCode (nbits w : Nat) : Code :=
  if nbits ≤ 16 then
    if w < 4096 then .word (BitVec.ofNat 12 w) [] else .frame (frameOfNumber (w % 65536))
  else if nbits = 56 then .command ((groups 8 7 w).map (BitVec.ofNat 8))
  else
    let ns := groups 16 (nbits / 16) w
    if ns.all (· < 4096) then .read (ns.map (BitVec.ofNat 12)) else .read []

/-- The instruction the decoder reads from an opcode-table row's bits. -/
def decodeTableWord (nbits w : Nat) : Option Instr :=
  match decode Config.default (tableCode nbits w) with
  | .ok i => some i
  | .error _ => none

end Sys2Proof
end

