-- ==== Sys2Proof/Machine/Flags.lean ====
section
/-!
DEFINITION. The condition outputs of the block: the status word (R31), the control word's field (R30), and the
predicates on a reading's flag, sign and status bytes (R28, R117 to R119, R122, R126).
-/

namespace Sys2Proof.Machine

/-- `STATUS`, a pure function of the state (R31): bit 7 reads 0. -/
def statusWord (s : State) : Byte :=
  BitVec.ofBool false ++ BitVec.ofBool s.refused ++ BitVec.ofBool s.fQOvf ++ BitVec.ofBool s.fBufOvf
    ++ BitVec.ofBool (decide (s.q ≠ [])) ++ BitVec.ofBool s.stopReq
    ++ BitVec.ofBool (decide (s.phase = .inRead)) ++ BitVec.ofBool (decide (s.phase = .halted))

/-- `CTRL.STOP`, bit 0 of the control word (R30). -/
def ctrlStop (v : Byte) : Bool := v.getLsbD 0

/-- `accUnit` (R117). -/
def accUnit (accFlowFlag : Byte) : AccUnit :=
  if accFlowFlag = 0x0A then .liters else if accFlowFlag = 0x1A then .cubicMeters else .unknown

/-- `accPresent = (accUnit ≠ UNKNOWN)` (R117). -/
def accPresent (r : Reading) : Bool := decide (accUnit r.accFlowFlag ≠ .unknown)

/-- `instPresent = (instFlowFlag = 0x0B)` (R118). -/
def instPresent (r : Reading) : Bool := r.instFlowFlag == 0x0B

/-- `tempPresent = (tempFlag = 0x0D)` (R119). -/
def tempPresent (r : Reading) : Bool := r.tempFlag == 0x0D

/-- `negative = (flowSign = 0x80)`, the whole byte (R122). -/
def negative (r : Reading) : Bool := r.flowSign == 0x80

/-- `(status1 & 0x20) ≠ 0` (R126). -/
def emptyTube (r : Reading) : Bool := decide (r.status1 &&& 0x20 ≠ 0)

/-- `(status2 & 0x20) ≠ 0` (R126). -/
def chipError (r : Reading) : Bool := decide (r.status2 &&& 0x20 ≠ 0)

/-- `(status2 & 0x08) ≠ 0` (R126). -/
def wrongDirection (r : Reading) : Bool := decide (r.status2 &&& 0x08 ≠ 0)

/-- `(status2 & 0x04) ≠ 0` (R126). -/
def rateOutOfRange (r : Reading) : Bool := decide (r.status2 &&& 0x04 ≠ 0)

end Sys2Proof.Machine
end

