-- ==== Sys2Proof/Machine/Interpretation.lean ====
section
/-!
DEFINITION. The interpretation of a reading (43_interpretation.md): presence, unit, split, sign, identity, status
bits. Combinational outputs beside the Reading record that never change a result (D21).
-/

namespace Sys2Proof.Machine

/-- `accInt = accFlowRaw >> 12` (R120). -/
def accInt (raw : BitVec 48) : BitVec 36 := raw.extractLsb' 12 36

/-- `accFrac = accFlowRaw & 0xFFF` (R120). -/
def accFrac (raw : BitVec 48) : BitVec 12 := raw.extractLsb' 0 12

/-- `instInt = instFlowRaw >> 8` (R121). -/
def instInt (raw : BitVec 32) : BitVec 24 := raw.extractLsb' 8 24

/-- `instFrac = instFlowRaw & 0xFF` (R121). -/
def instFrac (raw : BitVec 32) : BitVec 8 := raw.extractLsb' 0 8

/-- `tempInt = waterTempRaw >> 8` (R123). -/
def tempInt (raw : BitVec 16) : BitVec 8 := raw.extractLsb' 8 8

/-- `tempFrac = waterTempRaw & 0xFF` (R123). -/
def tempFrac (raw : BitVec 16) : BitVec 8 := raw.extractLsb' 0 8

/-- The accumulated flow, absent unless its flag is a sentinel (R116, R117, R120). -/
def accFlowOf (r : Reading) : Option AccFlow :=
  if accPresent r then
    some { raw := r.accFlowRaw, unit := accUnit r.accFlowFlag, int := accInt r.accFlowRaw,
           frac := accFrac r.accFlowRaw }
  else none

/-- The instantaneous flow and its sign, absent unless its flag is the sentinel (R116, R118, R121, R122). -/
def instFlowOf (r : Reading) : Option InstFlow :=
  if instPresent r then
    some { raw := r.instFlowRaw, negative := negative r, int := instInt r.instFlowRaw,
           frac := instFrac r.instFlowRaw }
  else none

/-- The water temperature, absent unless its flag is the sentinel (R116, R119, R123). -/
def waterTempOf (r : Reading) : Option WaterTemp :=
  if tempPresent r then
    some { raw := r.waterTempRaw, int := tempInt r.waterTempRaw, frac := tempFrac r.waterTempRaw }
  else none

/-- The outputs beside a Reading record (R116 to R126, D21). -/
def interpret (r : Reading) : Interpretation where
  identity := r.identity
  accFlow := accFlowOf r
  instFlow := instFlowOf r
  waterTemp := waterTempOf r
  emptyTube := emptyTube r
  chipError := chipError r
  wrongDirection := wrongDirection r
  rateOutOfRange := rateOutOfRange r

/-- The outputs beside a result: none for a result that carries no reading (R110, R152). -/
def advisoryOf (d : DecodeResult) : Option Interpretation := (readingOf d).map interpret

end Sys2Proof.Machine
end

