-- ==== Sys2Proof/Machine/FrameDecoder.lean ====
section
/-!
DEFINITION. The Frame Decoder (42_decoder.md): length check, field extraction, validation, the result of a frame; the
meanings of DECODE and of the rows of the classification map.
-/

namespace Sys2Proof.Machine

/-- The identity of a format that carries one (R65, R67, R108). -/
def identityAt (F : ByteString) : Option Nat → Option Identity
  | none => none
  | some o => some { deviceManufData := manufOf (field40 F o), serialNumber := serialOf (field40 F o) }

/-- `extract(F, fmt)` with the two validity flags (R108, R109): every field raw, at its fixed offset. -/
def extract (L : ReportLayout) (F : ByteString) : Reading where
  identity := identityAt F L.idOff
  accFlowFlag := byteAt F L.accFlowFlagOff
  accFlowRaw := field48 F L.accFlowOff
  instFlowFlag := byteAt F L.instFlowFlagOff
  instFlowRaw := field32 F L.instFlowOff
  flowSign := byteAt F L.flowSignOff
  tempFlag := byteAt F L.tempFlagOff
  waterTempRaw := field16 F L.waterTempOff
  status1 := byteAt F L.status1Off
  status2 := byteAt F L.status2Off
  validChecksum := checksumHolds F L.chkOff
  validStopByte := stopHolds F L.stopOff

/-- `ackResult(F)` (R105). -/
def ackResult (cfg : Config) (F : ByteString) : DecodeResult :=
  if !cfg.ackExact || decide (F.length = 1) then .ack else .unrecognizedFrame

/-- The result of a frame that matched a report prefix: minimum length, then both validity checks (R106, R109,
R110, R132). -/
def reportResult (cfg : Config) (f : ReportFormat) (F : ByteString) : DecodeResult :=
  if F.length < (cfg.fmt.layout f).minLen then .unrecognizedFrame
  else
    let r := extract (cfg.fmt.layout f) F
    if r.validChecksum && r.validStopByte then reportKind f r
    else .validationFailed f r.validChecksum r.validStopByte

/-- `DECODE(F)` (R103): total over every byte string and pure (R111). -/
def decodeFrame (cfg : Config) (F : ByteString) : DecodeResult :=
  match classify cfg.fmt F with
  | none => .unrecognizedFrame
  | some .ack => ackResult cfg F
  | some (.report f) => reportResult cfg f F

/-- The result of DECODE is handed to the CONSUMER with the outputs beside its reading; the block keeps none (R111,
D21). -/
def State.giveResult (F : ByteString) (d : DecodeResult) (s : State) : State := s.emit (.decoded F d (advisoryOf d))

/-- The result of a FRAME row, handed out in the same way (log 11). -/
def State.giveFrameResult (F : ByteString) (d : DecodeResult) (s : State) : State :=
  s.emit (.classified F d (advisoryOf d))

/-- DECODE (R103): always enabled, changes no state of the block. -/
def execDecode (F : ByteString) (s : State) : Result :=
  atWord s true fun s => .next (s.giveResult F (decodeFrame s.cfg F))

/-- Row FRAME ActiveReport: the FD on a frame the map gives to ActiveReport (R59, R103; log 11). -/
def execFrameActiveReport (F : ByteString) (s : State) : Result :=
  whenEnabled s true fun s => .next (s.giveFrameResult F (reportResult s.cfg .activeReport F))

/-- Row FRAME Ack: the FD on a frame the map gives to Ack (R105; log 11). -/
def execFrameAck (F : ByteString) (s : State) : Result :=
  whenEnabled s true fun s => .next (s.giveFrameResult F (ackResult s.cfg F))

/-- Row FRAME PassiveReportWithId: the FD on a frame the map gives to PassiveReportWithId (R59, R103; log 11). -/
def execFramePassiveReportWithId (F : ByteString) (s : State) : Result :=
  whenEnabled s true fun s => .next (s.giveFrameResult F (reportResult s.cfg .passiveReportWithId F))

/-- Row FRAME PassiveReportNoId: the FD on a frame the map gives to PassiveReportNoId (R59, R103; log 11). -/
def execFramePassiveReportNoId (F : ByteString) (s : State) : Result :=
  whenEnabled s true fun s => .next (s.giveFrameResult F (reportResult s.cfg .passiveReportNoId F))

/-- Row FRAME unrecognised: `UnrecognizedFrame`, whatever the frame's bytes (R71, R107; log 11). -/
def execFrameUnrecognised (F : ByteString) (s : State) : Result :=
  whenEnabled s true fun s => .next (s.giveFrameResult F .unrecognizedFrame)

end Sys2Proof.Machine
end

