-- ==== Sys2Proof/Machine/Dispatch.lean ====
section
/-!
DEFINITION. One arm per operation.
-/

namespace Sys2Proof.Machine

def exec (i : Instr) (s : State) : Host.Outcome State Fault Refusal :=
  match i with
  | .rxByte more d => Sys2Proof.Machine.execRxByte more d s
  | .rxChunk bs => Sys2Proof.Machine.execRxChunk bs s
  | .rxTimeout => Sys2Proof.Machine.execRxTimeout s
  | .stop => Sys2Proof.Machine.execStop s
  | .pop => Sys2Proof.Machine.execPop s
  | .decode F => Sys2Proof.Machine.execDecode F s
  | .checksum bs => Sys2Proof.Machine.execChecksum bs s
  | .asmIssue => Sys2Proof.Machine.execAsmIssue s
  | .asmHalt => Sys2Proof.Machine.execAsmHalt s
  | .refusedWord w => Sys2Proof.Machine.execRefusedWord w s
  | .frameActiveReport F => Sys2Proof.Machine.execFrameActiveReport F s
  | .frameAck F => Sys2Proof.Machine.execFrameAck F s
  | .framePassiveReportWithId F => Sys2Proof.Machine.execFramePassiveReportWithId F s
  | .framePassiveReportNoId F => Sys2Proof.Machine.execFramePassiveReportNoId F s
  | .frameUnrecognised F => Sys2Proof.Machine.execFrameUnrecognised F s
  | .cmd hi lo => Sys2Proof.Machine.execCmd hi lo s

end Sys2Proof.Machine
end

