-- ==== Sys2Proof/Machine/Environment.lean ====
section
/-!
DEFINITION. Taking one input: an operation in its code, `decode <popped>`, a CTRL write, a STATUS sample, reset; and
the end of the trace (R30, R31, R75, R80, R142).
-/

namespace Sys2Proof.Machine

/-- The agents whose steps the operations are (R16). -/
inductive Agent where
  | fa
  | channel
  | control
  | consumer
deriving DecidableEq, Repr

/-- The agent that takes an operation (R16, R74). The FD works when the CONSUMER asks for it, so the FRAME rows are the
CONSUMER's (log 11); a word of R75(a) is no step of an agent, and CMD lies outside the block (R85). -/
def agentOf : Instr → Option Agent
  | .rxByte _ _ => some .channel
  | .rxChunk _ => some .channel
  | .rxTimeout => some .channel
  | .stop => some .control
  | .pop => some .consumer
  | .decode _ => some .consumer
  | .checksum _ => some .consumer
  | .asmIssue => some .fa
  | .asmHalt => some .fa
  | .refusedWord _ => none
  | .frameActiveReport _ => some .consumer
  | .frameAck _ => some .consumer
  | .framePassiveReportWithId _ => some .consumer
  | .framePassiveReportNoId _ => some .consumer
  | .frameUnrecognised _ => some .consumer
  | .cmd _ _ => none

/-- The input is a step of the CONSUMER: an operation of its own, or `decode <popped>` where a POP has returned a frame
(R16, R80). -/
def isConsumerStep (s : State) : Input → Bool
  | .operation c =>
    match decode s.cfg c with
    | .ok i => decide (agentOf i = some .consumer)
    | .error _ => false
  | .decodePopped => (lastPopped s.log).isSome
  | .writeCtrl _ => false
  | .sampleStatus => false
  | .reset => false

/-- The CONSUMER takes no further step: the inputs still to come, up to the reset that begins another run, hold none of
its steps (R145, log 23). -/
def consumerDone (s : State) : Bool := (s.trace.takeWhile fun x => decide (x ≠ .reset)).all fun x => !isConsumerStep s x

/-- The refusal of a code that is no operation of the spec (log 14). -/
def refusalOf : DecodeError → Refusal
  | .malformedRead => .malformedRead
  | .malformedCommand => .malformedCommand

/-- A presented code is decoded and its operation runs. -/
def runCode (c : Code) (s : State) : Result :=
  match decode s.cfg c with
  | .ok i => exec i s
  | .error e => .refused (refusalOf e)

/-- `decode <popped>`: DECODE of the frame the last POP returned, or nothing if it returned none (R80; log 22). -/
def runDecodePopped (s : State) : Result :=
  match lastPopped s.log with
  | some F => exec (.decode F) s
  | none => .next s

/-- A write of `CTRL`: bit 0 performs STOP, the other bits are ignored (R30; log 18). -/
def runWriteCtrl (v : Byte) (s : State) : Result :=
  if ctrlStop v then whenEnabled s true fun s => .next s.requestStop else .next s

/-- A sample of `STATUS`: no side effect on the block, in any state (R29, R139; log 18). -/
def runSampleStatus (s : State) : Result := .next (s.emit (.status (statusWord s)))

/-- One input is taken. -/
def runInput (x : Input) (s : State) : Result :=
  match x with
  | .operation c => runCode c s
  | .decodePopped => runDecodePopped s
  | .writeCtrl v => runWriteCtrl v s
  | .sampleStatus => runSampleStatus s
  | .reset => .next s.afterReset

/-- No input is left. A trace that ends inside a read is refused (R75(c)); otherwise nothing happens (log 7). -/
def endOfTrace (s : State) : Result := if s.midRead then .next s.markRefused else .next s

end Sys2Proof.Machine
end

