-- ==== Sys2Proof/Machine/Step.lean ====
section
/-!
DEFINITION. One step of the machine: it takes the next input of the trace.
-/

namespace Sys2Proof.Machine

/-- One step: the next input is taken off the trace and run (R16, R51; log 1). -/
def step (s : State) : Host.Outcome State Fault Refusal :=
  match s.trace with
  | [] => endOfTrace s
  | x :: rest => runInput x (s.withTrace rest)

/-- `s` with the opcode-table word `w` as its next input (log 13). -/
def State.withFetchWord (s : State) (nbits w : Nat) : State :=
  s.withTrace (.operation (tableCode nbits w) :: s.trace)

end Sys2Proof.Machine
end

