-- ==== Sys2Proof/Machine/Assembly.lean ====
section
/-!
DEFINITION. The assembler syntax of traces and its pseudo-operations (R79, R80), as data: what inputs a line stands
for.
-/

namespace Sys2Proof.Machine

/-- One line of a trace (R79) or a pseudo-operation (R80). -/
inductive TraceLine where
  | issue
  | halt
  | rxb (d : Byte)
  | rxbMore (d : Byte)
  | timeout
  | stop
  | pop
  | decode (F : ByteString)
  | decodePopped
  | checksum (bs : ByteString)
  | rx (bs : ByteString)
  | frame (B : ByteString)
  | popdecode
  | cmd (hi lo : Byte)
deriving DecidableEq, Repr

/-- A trace word with no operand, as an input. -/
def wordInput (w : TraceWord) : Input := .operation (.word w [])

/-- The inputs a line stands for, trace words as R79 prints them, pseudo-operations expanded (R80). -/
def TraceLine.inputs : TraceLine → List Input
  | .issue => [wordInput 0xC00]
  | .halt => [wordInput 0xE00]
  | .rxb d => [wordInput (mkWord 0 false d)]
  | .rxbMore d => [wordInput (mkWord 0 true d)]
  | .timeout => [wordInput 0x200]
  | .stop => [wordInput 0x400]
  | .pop => [wordInput 0x600]
  | .decode F => [.operation (.word 0x800 F)]
  | .decodePopped => [.decodePopped]
  | .checksum bs => [.operation (.word 0xA00 bs)]
  | .rx bs => (readWords bs).map wordInput
  | .frame B => [wordInput 0xC00] ++ (readWords B).map wordInput ++ [wordInput 0xC00, wordInput 0x200]
  | .popdecode => [wordInput 0x600, .decodePopped]
  | .cmd hi lo => [.operation (.command (commandFrame hi lo))]

/-- The inputs of a trace. -/
def assemble (ls : List TraceLine) : List Input := ls.flatMap TraceLine.inputs

end Sys2Proof.Machine
end

