-- ==== Sys2Proof/Safety.lean ====
section
/-!
DEFINITION. The terms in which claims about the block are made: which operations are enabled, what a clean and an ended
run are, the history of the queue, the invariant every step keeps.
-/

namespace Sys2Proof.Machine

/-- No fault bit and no refusal mark: what any claim about a run must assume (R25, R130). -/
abbrev Clean (s : State) : Prop := s.fBufOvf = false ∧ s.fQOvf = false ∧ s.refused = false

/-- A state in which a trace word can be taken: not inside a read (R75(b)) and no fault bit set (R130). -/
abbrev Ready (s : State) : Prop := s.midRead = false ∧ s.faulted = false

/-- `n` steps, stopping at the first that has no next state. -/
def run : Nat → State → Result
  | 0, s => .next s
  | n + 1, s =>
    match step s with
    | .next t => run n t
    | .fault r => .fault r
    | .refused r => .refused r

/-- A run has ended (R145): the FA is halted, no sticky bit is set, and the CONSUMER takes no further step. Other inputs
may still come (log 23). -/
abbrev Ended (s : State) : Prop := s.phase = .halted ∧ Clean s ∧ consumerDone s = true

/-- What one event does to the frames that are pushed and not yet popped. -/
def inFlightStep (pending : List ByteString) : Event → List ByteString
  | .pushed F => pending ++ [F]
  | .popped (some _) => pending.tail
  | .popped none => pending
  | .decoded _ _ _ => pending
  | .classified _ _ _ => pending
  | .summed _ => pending
  | .commanded _ => pending
  | .status _ => pending
  | .wasReset => []

/-- The frames the FA emitted that no POP has yet removed, in emission order, read off the log (R26(c)); reset loses
them (R142). -/
def inFlight (log : List Event) : List ByteString := log.foldl inFlightStep []

/-- What a run lets the outside observe (R145): the values POP returned, the results DECODE gave for them, both in
order, and the final `q`. -/
structure RunOutcome where
  popped : List (Option ByteString)
  results : List (ByteString × DecodeResult)
  queue : List ByteString
deriving DecidableEq, Repr

/-- What one event adds to the values popped and to the results DECODE gave for popped values; reset begins another run
(log 23). -/
def observeStep (acc : List (Option ByteString) × List (ByteString × DecodeResult)) :
    Event → List (Option ByteString) × List (ByteString × DecodeResult)
  | .popped r => (acc.1 ++ [r], acc.2)
  | .decoded F r _ => if some F ∈ acc.1 then (acc.1, acc.2 ++ [(F, r)]) else acc
  | .wasReset => ([], [])
  | .pushed _ => acc
  | .classified _ _ _ => acc
  | .summed _ => acc
  | .commanded _ => acc
  | .status _ => acc

/-- The observable outcome of the run up to this state (R145). -/
def observed (s : State) : RunOutcome where
  popped := (s.log.foldl observeStep ([], [])).1
  results := (s.log.foldl observeStep ([], [])).2
  queue := s.q

/-- Phases in which the FA or the CHANNEL may take an operation (R89, R90, R92, R93, R94), and the operations enabled
in every phase (R81, R95, R96, R103). -/
def enabledIn (i : Instr) (phase : Phase) (stopReq : Bool) : Prop :=
  match i with
  | .rxByte _ _ => phase = .inRead
  | .rxChunk bs => phase = .inRead ∧ bs ≠ []
  | .rxTimeout => phase = .inRead
  | .stop => True
  | .pop => True
  | .decode _ => True
  | .checksum _ => True
  | .asmIssue => phase = .top ∧ stopReq = false
  | .asmHalt => phase = .top ∧ stopReq = true
  | .refusedWord _ => True
  | .frameActiveReport _ => True
  | .frameAck _ => True
  | .framePassiveReportWithId _ => True
  | .framePassiveReportNoId _ => True
  | .frameUnrecognised _ => True
  | .cmd _ _ => True

/-- The invariant of the block: R26, with the bounds of R20, R23, R24 and what the phases imply. -/
structure Inv (s : State) : Prop where
  /-- R26(a): every frame of the queue is non-empty. -/
  framesNonEmpty : ∀ F ∈ s.q, F ≠ []
  /-- R26(b): a halted assembler has an empty buffer. -/
  haltedEmpty : s.phase = .halted → s.buf = []
  /-- R26(c): the queue is the emitted frames no POP has removed, in order. -/
  queueHistory : inFlight s.log = s.q
  /-- R20: a bounded buffer stays within FRAME_CAP. -/
  bufferBound : ∀ c, s.cfg.frameCap = some c → s.buf.length ≤ c
  /-- R23: a bounded queue stays within QUEUE_CAP. -/
  queueBound : ∀ c, s.cfg.queueCap = some c → s.q.length ≤ c
  /-- R24: BUF_OVF only with a bounded buffer. -/
  bufOvfBounded : s.cfg.frameCap = none → s.fBufOvf = false
  /-- R24: Q_OVF only with a bounded queue. -/
  qOvfBounded : s.cfg.queueCap = none → s.fQOvf = false
  /-- R90, R22: only a stop halts, and the stop flag stays set. -/
  haltedStopped : s.phase = .halted → s.stopReq = true
  /-- R93: inside a read the read is outstanding. -/
  midReadOutstanding : s.midRead = true → s.phase = .inRead

/-- One result of an outstanding read, in the sense of R100: a non-empty chunk or a timeout. -/
inductive ReadResult where
  /-- A chunk of the bytes `b :: bs`, at least one. -/
  | chunk (b : Byte) (bs : ByteString)
  | timeout
deriving DecidableEq, Repr

/-- R100: the frames read results cut, and the bytes left over, from the bytes already in the buffer on: the sequence
is cut at each timeout, the pushed frames are the concatenations of the chunks, empty ones skipped. -/
def cutFrames (pending : ByteString) : List ReadResult → List ByteString × ByteString
  | [] => ([], pending)
  | .chunk b bs :: rs => cutFrames (pending ++ b :: bs) rs
  | .timeout :: rs =>
    if pending = [] then cutFrames [] rs
    else (pending :: (cutFrames [] rs).1, (cutFrames [] rs).2)

/-- The trace of one loop iteration that gets this read result: the read is issued, then its result comes (R88). -/
def iteration : ReadResult → List TraceLine
  | .chunk b bs => [.issue, .rx (b :: bs)]
  | .timeout => [.issue, .timeout]

/-- The trace of a run of the FA with these read results (R88, R100). -/
def iterations (rs : List ReadResult) : List TraceLine := rs.flatMap iteration

end Sys2Proof.Machine
end

