-- ==== Sys2Proof/Certificates/Slice0/Obligations.lean ====
section
/-!
DEFINITION. The statements about the block, for the provers. Each docstring names the rule it formalises. "Returns" is
read off the log (log 8); the schedule of the agents is the trace (log 1).
-/

open Sys2Proof Sys2Proof.Machine

/-! ### The frame assembler, the queue, the stop flag -/

/-- R89. ASM_ISSUE, word 0xC00, is enabled exactly when `phase = TOP ∧ stopReq = false`; then it only sets `phase` to
IN_READ. Otherwise the trace is stuck at it (R75), which the model says as `notEnabled` (the model's choice, log 4).
-/
def Obligations.AsmIssueStartsOneRead : Prop :=
  (∀ cfg : Config, decode cfg (.word 0xC00 []) = .ok .asmIssue) ∧
  ∀ s : State, Ready s →
    (s.phase = .top ∧ s.stopReq = false → exec .asmIssue s = .next { s with phase := .inRead }) ∧
    (¬(s.phase = .top ∧ s.stopReq = false) → exec .asmIssue s = .fault .notEnabled)

/-- R90. ASM_HALT, word 0xE00, is enabled exactly when `phase = TOP ∧ stopReq = true`; then it drops `buf`, halts the
loop and changes nothing else, `q` included. Otherwise the trace is stuck at it (R75), which the model says as
`notEnabled` (the model's choice, log 4). -/
def Obligations.AsmHaltDropsThePartialFrame : Prop :=
  (∀ cfg : Config, decode cfg (.word 0xE00 []) = .ok .asmHalt) ∧
  ∀ s : State, Ready s →
    (s.phase = .top ∧ s.stopReq = true → exec .asmHalt s = .next { s with buf := [], phase := .halted }) ∧
    (¬(s.phase = .top ∧ s.stopReq = true) → exec .asmHalt s = .fault .notEnabled)

/-- R92; that `midRead` changes is the model's choice (log 2), and so is that a chunk not enabled is stuck as
`notEnabled` (R75, log 4). RX_CHUNK of at least one byte is enabled exactly when `phase = IN_READ`; it raises BUF_OVF,
which sets the fault bit and nothing else of the block (`midRead`, log 2, says the chunk was no RX_BYTE with `M = 1`),
when the bytes do not fit, and else appends them, whatever they are, and ends the read. It is written as as many
RX_BYTE words as it has bytes. On overflow (R129, R130) it is the model's choice that the faulting step answers a next
state with the fault bit set (log 5). -/
def Obligations.RxChunkAppendsAndEndsTheRead : Prop :=
  (∀ bs : ByteString, (readWords bs).length = bs.length ∧ ∀ w ∈ readWords bs, opField w = 0) ∧
  ∀ (s : State) (bs : ByteString), s.faulted = false → bs ≠ [] →
    (s.phase = .inRead → (∀ c, s.cfg.frameCap = some c → s.buf.length + bs.length ≤ c) →
      exec (.rxChunk bs) s = .next { s with buf := s.buf ++ bs, phase := .top, midRead := false }) ∧
    (s.phase = .inRead → (∃ c, s.cfg.frameCap = some c ∧ c < s.buf.length + bs.length) →
      exec (.rxChunk bs) s = .next { s with fBufOvf := true, midRead := false }) ∧
    (s.phase ≠ .inRead → exec (.rxChunk bs) s = .fault .notEnabled)

/-- R93; that `midRead` changes, and when, is the model's choice (log 2), and so is that a byte not enabled is stuck
as `notEnabled` (R75, log 4). The pseudocode of RX_BYTE, inside a read or not: one byte is appended, `M = 0` ends the
read and `M = 1` leaves it outstanding; the capacity check comes before the append. Its word is `M·0x100 + d`. On
overflow (R129, R130) it is the model's choice that the faulting step answers a next state with the fault bit set (log
5). -/
def Obligations.RxByteAppendsOneByte : Prop :=
  (∀ (cfg : Config) (more : Bool) (d : Byte),
    decode cfg (.word (BitVec.ofNat 12 ((if more then 0x100 else 0) + d.toNat)) []) = .ok (.rxByte more d)) ∧
  ∀ (s : State) (more : Bool) (d : Byte), s.faulted = false →
    (s.phase = .inRead → (∀ c, s.cfg.frameCap = some c → s.buf.length + 1 ≤ c) →
      exec (.rxByte more d) s =
        .next { s with buf := s.buf ++ [d], phase := if more then .inRead else .top, midRead := more }) ∧
    (s.phase = .inRead → (∃ c, s.cfg.frameCap = some c ∧ c < s.buf.length + 1) →
      exec (.rxByte more d) s = .next { s with fBufOvf := true, midRead := more }) ∧
    (s.phase ≠ .inRead → exec (.rxByte more d) s = .fault .notEnabled)

/-- R94, R75, R129, R130. RX_TIMEOUT, word 0x200. Inside a read's bytes it is refused: R75(b) over the model's field
`midRead` (log 2). Else, enabled when `phase = IN_READ`: with an empty buffer it only ends the read; else it pushes
the whole buffer at the tail of `q` and empties it, or raises Q_OVF, which sets the fault bit and nothing else, when a
bounded queue is full. Not enabled, it is stuck as `notEnabled` (log 4). The logged push (log 8), `midRead`,
`notEnabled`, and that the step raising Q_OVF answers a next state with the bit set (log 5) are the model's choices.
-/
def Obligations.RxTimeoutPushesTheWholeBuffer : Prop :=
  (∀ cfg : Config, decode cfg (.word 0x200 []) = .ok .rxTimeout) ∧
  (∀ s : State, s.midRead = true → s.faulted = false → exec .rxTimeout s = .next { s with refused := true }) ∧
  ∀ s : State, Ready s →
    (s.phase = .inRead → s.buf = [] → exec .rxTimeout s = .next { s with phase := .top }) ∧
    (s.phase = .inRead → s.buf ≠ [] → s.cfg.queueCap ≠ some s.q.length →
      exec .rxTimeout s =
        .next { s with q := s.q ++ [s.buf], buf := [], phase := .top, log := s.log ++ [.pushed s.buf] }) ∧
    (s.phase = .inRead → s.buf ≠ [] → s.cfg.queueCap = some s.q.length →
      exec .rxTimeout s = .next { s with fQOvf := true }) ∧
    (s.phase ≠ .inRead → exec .rxTimeout s = .fault .notEnabled)

/-- R95. STOP in every phase only sets `stopReq`, as the word 0x400 and as a write of 1 to `CTRL.STOP`. -/
def Obligations.StopSetsTheStopFlag : Prop :=
  (∀ cfg : Config, decode cfg (.word 0x400 []) = .ok .stop) ∧
  ∀ s : State, Ready s →
    exec .stop s = .next { s with stopReq := true } ∧
    ∀ (v : Byte) (rest : List Input), v.getLsbD 0 = true → s.trace = .writeCtrl v :: rest →
      step s = .next { s with stopReq := true, trace := rest }

/-- R96. POP in every phase, HALTED included: `none` from an empty queue, which stays as it is; else the head, which
is removed. Its word is 0x600. -/
def Obligations.PopReturnsTheHeadOrNone : Prop :=
  (∀ cfg : Config, decode cfg (.word 0x600 []) = .ok .pop) ∧
  ∀ s : State, Ready s →
    (s.q = [] → exec .pop s = .next { s with log := s.log ++ [.popped none] }) ∧
    (∀ F rest, s.q = F :: rest → exec .pop s = .next { s with q := rest, log := s.log ++ [.popped (some F)] })

/-- R48. A run of as many POP words as the queue has frames returns them in the order they were pushed, each once, and
leaves the queue empty. -/
def Obligations.DrainReturnsTheQueueInOrder : Prop :=
  ∀ (s : State) (rest : List Input), Ready s → s.trace = List.replicate s.q.length (wordInput 0x600) ++ rest →
    run s.q.length s =
      .next { s with q := [], trace := rest, log := s.log ++ s.q.map (fun F => .popped (some F)) }

/-- R91. Once halted the FA and the CHANNEL have no step, which the model says as `notEnabled` (R75; the model's
choice, log 4); POP, DECODE, CHECKSUM and STOP stay enabled; and no input but reset leaves HALTED. -/
def Obligations.HaltedUntilReset : Prop :=
  ∀ s : State, s.phase = .halted →
    (Ready s →
      exec .asmIssue s = .fault .notEnabled ∧ exec .asmHalt s = .fault .notEnabled ∧
      exec .rxTimeout s = .fault .notEnabled ∧
      (∀ bs, exec (.rxChunk bs) s = .fault .notEnabled) ∧
      (∀ more d, exec (.rxByte more d) s = .fault .notEnabled) ∧
      (∃ t, exec .pop s = .next t) ∧ (∀ F, ∃ t, exec (.decode F) s = .next t) ∧
      (∀ bs, ∃ t, exec (.checksum bs) s = .next t) ∧ ∃ t, exec .stop s = .next t) ∧
    ∀ x t, runInput x s = .next t → x = .reset ∨ t.phase = .halted

/-- R90, R95; R34 and R102, which the spec marks as derived from them. After STOP at most one read result is
processed: whatever completes the outstanding read without a fault brings the FA to TOP with the flag still set, where
no read can be issued and ASM_HALT halts it. "Cannot be issued" is `notEnabled` (the model's choice, log 4). -/
def Obligations.StoppedAssemblerHaltsAfterOneRead : Prop :=
  ∀ (s t : State) (i : Instr), s.faulted = false → s.stopReq = true → s.phase = .inRead →
    ((i = .rxTimeout ∧ s.midRead = false) ∨ (∃ bs, i = .rxChunk bs) ∨ ∃ d, i = .rxByte false d) →
    exec i s = .next t → t.faulted = false →
    t.phase = .top ∧ t.stopReq = true ∧ exec .asmIssue t = .fault .notEnabled ∧
      exec .asmHalt t = .next { t with buf := [], phase := .halted }

/-- R93; R97, which the spec marks as derived from R92, R94 and R90. The RX_BYTE words of a chunk, run one by one,
have exactly the effect of RX_CHUNK of its bytes where they fit, and raise BUF_OVF exactly where RX_CHUNK does. On
overflow (R129, R130) it is the model's choice that the faulting step answers a next state with the fault bit set (log
5). -/
def Obligations.ByteWordsHaveTheEffectOfTheChunk : Prop :=
  ∀ (s : State) (bs : ByteString) (rest : List Input), s.faulted = false → s.phase = .inRead → bs ≠ [] →
    s.trace = (readWords bs).map wordInput ++ rest →
    ((∀ c, s.cfg.frameCap = some c → s.buf.length + bs.length ≤ c) →
      run bs.length s = exec (.rxChunk bs) { s with trace := rest }) ∧
    ((∃ c, s.cfg.frameCap = some c ∧ c < s.buf.length + bs.length) →
      (∃ k t, k ≤ bs.length ∧ run k s = .next t ∧ t.fBufOvf = true) ∧
      ∃ t, exec (.rxChunk bs) s = .next t ∧ t.fBufOvf = true)

/-- R100, which the spec marks as derived from R92, R94 and R90. The frames pushed are determined by the read results
alone: the FA's loop run over any list of them, from the top of the loop with unbounded capacities, pushes exactly the
frames the timeouts cut, in order, empty ones skipped, and keeps the bytes after the last timeout; a stop and a halt
then drop those bytes and push nothing. -/
def Obligations.PushedFramesAreTheReadsCutAtTimeouts : Prop :=
  ∀ (s : State) (rs : List ReadResult) (rest : List Input), Ready s → s.phase = .top → s.stopReq = false →
    s.cfg.frameCap = none → s.cfg.queueCap = none →
    (s.trace = assemble (iterations rs) ++ rest →
      ∃ t, run (assemble (iterations rs)).length s = .next t ∧
        t.q = s.q ++ (cutFrames s.buf rs).1 ∧ t.buf = (cutFrames s.buf rs).2 ∧ t.phase = .top ∧
        t.stopReq = false ∧ Ready t ∧ t.trace = rest) ∧
    (s.trace = assemble (iterations rs ++ [.stop, .halt]) ++ rest →
      ∃ t, run (assemble (iterations rs ++ [.stop, .halt])).length s = .next t ∧
        t.q = s.q ++ (cutFrames s.buf rs).1 ∧ t.buf = [] ∧ t.phase = .halted ∧ t.trace = rest)

/-- R97, which the spec marks as derived from R92, R94 and R90. How the bytes of a read are chunked does not show:
reading `A ++ B` at once, or `A` and then `B` with no timeout between them, leaves the same state; and with a STOP
after `A`, or after `A ++ B`, and the halt, the same state too. -/
def Obligations.ChunkingIsUnobservable : Prop :=
  ∀ (s : State) (A B : ByteString) (rest : List Input), Ready s → s.phase = .top → s.stopReq = false →
    s.cfg.frameCap = none → A ≠ [] → B ≠ [] →
    let after : List TraceLine → Result := fun ls => run (assemble ls).length { s with trace := assemble ls ++ rest }
    after [.issue, .rx (A ++ B)] = .next { s with buf := s.buf ++ (A ++ B), trace := rest } ∧
    after [.issue, .rx A, .issue, .rx B] = .next { s with buf := s.buf ++ (A ++ B), trace := rest } ∧
    after [.issue, .rx (A ++ B), .stop, .halt] =
      .next { s with buf := [], phase := .halted, stopReq := true, trace := rest } ∧
    after [.issue, .rx A, .stop, .halt] =
      .next { s with buf := [], phase := .halted, stopReq := true, trace := rest }

/-- R80. `popdecode`: a POP and then the DECODE of the frame it returned, or nothing if it returned none. Where the
popped frame is remembered is the model's choice (log 22). -/
def Obligations.PopDecodeDecodesThePoppedFrame : Prop :=
  ∀ (s : State) (rest : List Input), Ready s → s.trace = assemble [.popdecode] ++ rest →
    (s.q = [] → run 2 s = .next { s with trace := rest, log := s.log ++ [.popped none] }) ∧
    (∀ F q', s.q = F :: q' →
      run 2 s = exec (.decode F) { s with q := q', trace := rest, log := s.log ++ [.popped (some F)] })

/-- R145, with R26 and R91. A run that has ended has an empty buffer, and stays ended with the same observable outcome
and the same `q` whatever comes but a reset; a refused word still to come sets the refusal mark, and R145 then calls
the run ended no longer. What counts as a CONSUMER step and as the outcome is the model's reading (log 23); that a
step past the end of the trace changes nothing is its choice (log 7). -/
def Obligations.EndedRunStays : Prop :=
  ∀ s : State, Inv s → Ended s →
    s.buf = [] ∧ (s.trace = [] → step s = .next s) ∧
    ∀ t, step s = .next t → (∀ rest, s.trace ≠ .reset :: rest) →
      observed t = observed s ∧ t.q = s.q ∧ t.buf = [] ∧ t.phase = .halted ∧ (Ended t ∨ t.refused = true)

/-! ### Faults, refusals, enabling -/

/-- R130, R134. While a fault bit is set no agent has a step, inside a read or not; the one mark that can still be set
is the refusal mark, and it alone changes; CMD lies outside the block. Model's choices: that a meaningless word is
still refused then (log 3; inside a read also every other trace word than RX_BYTE, log 2), that quiescence wins over
"enabled always" for POP, DECODE, CHECKSUM and STOP (log 6), that the FRAME rows are steps of an agent (log 11), and
that CMD completes (log 12). -/
def Obligations.FaultedBlockIsQuiescent : Prop :=
  ∀ (s : State) (i : Instr), s.faulted = true →
    ((s.midRead = false ∨ (∃ more d, i = .rxByte more d) ∨ (∃ bs, i = .rxChunk bs) ∨
        (∃ F, i = .frameActiveReport F) ∨ (∃ F, i = .frameAck F) ∨ (∃ F, i = .framePassiveReportWithId F) ∨
        (∃ F, i = .framePassiveReportNoId F) ∨ ∃ F, i = .frameUnrecognised F) →
      (∀ w, i ≠ .refusedWord w) → (∀ hi lo, i ≠ .cmd hi lo) → exec i s = .fault .quiescent) ∧
    ∀ t, exec i s = .next t →
      t = { s with refused := true } ∨
        ∃ hi lo, i = .cmd hi lo ∧ t = { s with log := s.log ++ [.commanded (commandFrame hi lo)] }

/-- R129, R130. A step that sets a fault bit of a state with none sets it on the condition R129 gives, and changes
nothing else of the block. That the faulting step has a next state is the model's choice (log 5). -/
def Obligations.FaultsArePreciseAndOnlyOnOverflow : Prop :=
  ∀ (s t : State) (i : Instr), s.faulted = false → exec i s = .next t → t.faulted = true →
    t.buf = s.buf ∧ t.q = s.q ∧ t.phase = s.phase ∧ t.stopReq = s.stopReq ∧ t.refused = s.refused ∧
    t.log = s.log ∧ s.phase = .inRead ∧
    ((t.fBufOvf = true ∧ t.fQOvf = false ∧
        ∃ c, s.cfg.frameCap = some c ∧
          ((∃ more d, i = .rxByte more d ∧ c < s.buf.length + 1) ∨
            ∃ bs, i = .rxChunk bs ∧ c < s.buf.length + bs.length)) ∨
      (t.fQOvf = true ∧ t.fBufOvf = false ∧ i = .rxTimeout ∧ s.buf ≠ [] ∧ s.cfg.queueCap = some s.q.length))

/-- R75, with `midRead` as its "follows an RX_BYTE word with `M = 1`" (log 2); that a fault bit makes no difference to
(a), (b) and (c) is the model's choice (log 3), and so is that a word not enabled is stuck as `notEnabled` (log 4).
(a) A word with `OP ≠ 000` and `M` or `D` non-zero is refused in every state: `refused` is set and nothing else. (b)
Inside a read, so is every other word than RX_BYTE. (c) So is the end of the trace. A word whose step is not enabled
is not refused: the trace is stuck at it. -/
def Obligations.MeaninglessWordsAreRefused : Prop :=
  (∀ (s : State) (w : TraceWord) (operand : ByteString) (rest : List Input),
    w.extractLsb' 9 3 ≠ 0 → w.extractLsb' 0 9 ≠ 0 → s.trace = .operation (.word w operand) :: rest →
    step s = .next { s with refused := true, trace := rest }) ∧
  (∀ (s : State) (w : TraceWord) (operand : ByteString) (rest : List Input),
    s.midRead = true → w.extractLsb' 9 3 ≠ 0 → s.trace = .operation (.word w operand) :: rest →
    step s = .next { s with refused := true, trace := rest }) ∧
  (∀ s : State, s.midRead = true → s.trace = [] → step s = .next { s with refused := true }) ∧
  (∀ (s : State) (i : Instr), Ready s → ¬ enabledIn i s.phase s.stopReq → exec i s = .fault .notEnabled)

/-- R16, R75. Outside a read and with no fault bit set, an operation has a next state exactly when it is enabled. The
rules give the enabling conditions of the trace-word operations and RX_CHUNK; that the FRAME rows (log 11) and CMD
(log 12) are enabled in every phase, and that RX_CHUNK of no bytes is not enabled (log 14), are the model's choices,
and so is that an enabled RX_BYTE, RX_CHUNK or RX_TIMEOUT that overflows (R129, R130) answers a next state with the
fault bit set (log 5). -/
def Obligations.NextStateExactlyWhenEnabled : Prop :=
  ∀ (s : State) (i : Instr), Ready s → ((∃ t, exec i s = .next t) ↔ enabledIn i s.phase s.stopReq)

/-- R25, R75(a); that a fault bit makes no difference is the model's choice (log 3). The REFUSED row completes in
every state: it sets the refusal mark and nothing else. -/
def Obligations.RefusedWordOnlyMarks : Prop :=
  ∀ (s : State) (w : TraceWord), exec (.refusedWord w) s = .next { s with refused := true }

/-- R22, R24, R25. No step but a reset clears `stopReq`, a fault bit or the refusal mark. -/
def Obligations.StickyBitsStayUntilReset : Prop :=
  ∀ s t : State, step s = .next t → (∀ rest, s.trace ≠ .reset :: rest) →
    (s.stopReq = true → t.stopReq = true) ∧ (s.fBufOvf = true → t.fBufOvf = true) ∧
    (s.fQOvf = true → t.fQOvf = true) ∧ (s.refused = true → t.refused = true)

/-- R54, R6, U22. Every step leaves the parameters as they are (that a reset does too is the model's choice, log 9),
and a step that is no end of trace takes exactly one input. -/
def Obligations.ParametersAreConstant : Prop :=
  ∀ s t : State, step s = .next t → t.cfg = s.cfg ∧ t.trace = s.trace.tail

/-! ### Checksum and validation -/

/-- R81. CHECKSUM returns the sum of the bytes modulo 256 and changes no state of the block. Its word is 0xA00 with
the bytes out of band. -/
def Obligations.ChecksumReturnsTheSumMod256 : Prop :=
  (∀ (cfg : Config) (bs : ByteString), decode cfg (.word 0xA00 bs) = .ok (.checksum bs)) ∧
  ∀ (s : State) (bs : ByteString), Ready s →
    exec (.checksum bs) s =
      .next { s with log := s.log ++ [.summed (BitVec.ofNat 8 ((bs.map BitVec.toNat).sum % 256))] }

/-- R82, whose laws (c), (d) and (e) the spec marks as derived from R81. The laws of `sum8`: any permutation, wrap at
256, concatenation, a single byte, and the change of one byte. -/
def Obligations.SumLawsHold : Prop :=
  (∀ A B : ByteString, A.Perm B → sum8 A = sum8 B) ∧
  (∀ A : ByteString, (sum8 A).toNat = (A.map BitVec.toNat).sum % 256) ∧
  (∀ A B : ByteString, (sum8 (A ++ B)).toNat = ((sum8 A).toNat + (sum8 B).toNat) % 256) ∧
  (∀ b : Byte, sum8 [b] = b) ∧
  (∀ (A B : ByteString) (x y : Byte), x ≠ y →
    sum8 (A ++ y :: B) - sum8 (A ++ x :: B) = y - x ∧ sum8 (A ++ y :: B) ≠ sum8 (A ++ x :: B))

/-- R83. The checksum check compares the byte at the fixed offset with the sum of all bytes but the final two: at the
minimum length that is the sum of the bytes below the checksum byte; with one extra byte the checksum byte is summed
too, and the check holds iff the bytes below it sum to 0. -/
def Obligations.ChecksumCheckSumsAllButTheFinalTwo : Prop :=
  ∀ (F : ByteString) (c : Nat) (b : Byte), F[c]? = some b →
    (2 ≤ F.length → (checksumHolds F c = true ↔ b = sum8 (F.take (F.length - 2)))) ∧
    (F.length = c + 2 → (checksumHolds F c = true ↔ b = sum8 (F.take c))) ∧
    (F.length = c + 3 → (checksumHolds F c = true ↔ sum8 (F.take c) = 0))

/-- R84. The stop-byte check looks at the byte at the fixed offset and at no other: the last byte does not matter. -/
def Obligations.StopCheckLooksAtOneOffset : Prop :=
  ∀ (F G : ByteString) (n : Nat) (b : Byte), F[n]? = some b →
    (stopHolds F n = true ↔ b = 0x16) ∧ (G[n]? = some b → stopHolds G n = stopHolds F n)

/-- R85, R58; that neither a fault bit nor an open read makes a difference is the model's choice (log 12). CMD(hi, lo)
is total and side-effect-free: in every state it gives the seven bytes, the checksum over start byte and opcode. -/
def Obligations.CommandFrameIsBuilt : Prop :=
  ∀ (s : State) (hi lo : Byte),
    exec (.cmd hi lo) s =
      .next { s with log := s.log ++ [.commanded [0xFE, 0xFE, 0x11, hi, lo, 0x11 + hi + lo, 0x16]] }

/-- R87, which the spec marks as derived from R85, R83 and R82. For every opcode the checksum of `frame[2:5]` is
`frame[5]`; the receive-side check of the same frame sums the two markers too, differs by 0xFC and fails; and a
command frame is no reply under the source's table. -/
def Obligations.CommandFrameIsNoReply : Prop :=
  ∀ hi lo : Byte,
    (commandFrame hi lo)[5]? = some (sum8 (((commandFrame hi lo).take 5).drop 2)) ∧
    sum8 ((commandFrame hi lo).take 5) = sum8 (((commandFrame hi lo).take 5).drop 2) + 0xFC ∧
    checksumHolds (commandFrame hi lo) 5 = false ∧
    ∀ cfg : Config, cfg.fmt = .source → decodeFrame cfg (commandFrame hi lo) = .unrecognizedFrame

/-- R86, C1. The frame of the one command whose opcode the source gives. -/
def Obligations.ReadWithoutIdFrameIsBuilt : Prop :=
  buildCommand .readWithoutId = [0xFE, 0xFE, 0x11, 0x5B, 0x0F, 0x7B, 0x16]

/-! ### The frame decoder -/

/-- R103, R111. DECODE completes on every byte string in every phase; it returns the FD's result with the outputs
beside its reading (D21) and changes no state of the block. Its word is 0x800 with the frame out of band. -/
def Obligations.DecodeReturnsAResult : Prop :=
  (∀ (cfg : Config) (F : ByteString), decode cfg (.word 0x800 F) = .ok (.decode F)) ∧
  ∀ (s : State) (F : ByteString), Ready s →
    exec (.decode F) s =
      .next { s with log := s.log ++ [.decoded F (decodeFrame s.cfg F) (advisoryOf (decodeFrame s.cfg F))] }

/-- R70, R103. The two levels agree: DECODE of a frame hands out the result, and beside it the outputs, that the row
of the classification map which takes the frame hands out, and both change nothing else. That a FRAME row means this
arm of DECODE, noted in the log as an event of its own, is the model's choice (log 8, log 11). -/
def Obligations.DecodeDoesWhatTheFrameRowDoes : Prop :=
  ∀ (s : State) (F : ByteString), Ready s →
    ∃ d, exec (.decode F) s = .next { s with log := s.log ++ [.decoded F d (advisoryOf d)] } ∧
      exec (decodeFrameRow s.cfg F) s = .next { s with log := s.log ++ [.classified F d (advisoryOf d)] }

/-- R106, R109, R110; that a FRAME row means this arm of DECODE is the model's choice (log 11). The three report rows,
under any format table: too short is UnrecognizedFrame; both checks true is the report with its reading; else
ValidationFailed with the format and both flags. -/
def Obligations.ReportRowsGiveTheValidatedResult : Prop :=
  ∀ (s : State) (F : ByteString), s.faulted = false →
    let result : ReportFormat → DecodeResult := fun f =>
      if F.length < (s.cfg.fmt.layout f).minLen then .unrecognizedFrame
      else if checksumHolds F (s.cfg.fmt.layout f).chkOff = true ∧ stopHolds F (s.cfg.fmt.layout f).stopOff = true then
        reportKind f (extract (s.cfg.fmt.layout f) F)
      else
        .validationFailed f (checksumHolds F (s.cfg.fmt.layout f).chkOff) (stopHolds F (s.cfg.fmt.layout f).stopOff)
    let answer : DecodeResult → Result := fun d =>
      .next { s with log := s.log ++ [.classified F d (advisoryOf d)] }
    exec (.frameActiveReport F) s = answer (result .activeReport) ∧
    exec (.framePassiveReportWithId F) s = answer (result .passiveReportWithId) ∧
    exec (.framePassiveReportNoId F) s = answer (result .passiveReportNoId)

/-- R105, proved of the FRAME Ack row: that the row means this arm of DECODE is the model's choice (log 11). An Ack is
`Ack` when P_ACK_EXACT is false or the frame has exactly one byte, else UnrecognizedFrame; the default is true; it
carries nothing and no checksum or stop byte is looked at. -/
def Obligations.AckNeedsOneByteWhenExact : Prop :=
  Config.default.ackExact = true ∧
  ∀ (s : State) (F : ByteString), s.faulted = false →
    (s.cfg.ackExact = false ∨ F.length = 1 →
      exec (.frameAck F) s = .next { s with log := s.log ++ [.classified F .ack none] }) ∧
    (s.cfg.ackExact = true → F.length ≠ 1 →
      exec (.frameAck F) s = .next { s with log := s.log ++ [.classified F .unrecognizedFrame none] })

/-- R71, R107; that a FRAME row means this arm of DECODE is the model's choice (log 11). A frame no row takes is
answered with UnrecognizedFrame, with nothing beside it; nothing is trapped or refused. -/
def Obligations.UnrecognisedRowIsAResult : Prop :=
  ∀ (s : State) (F : ByteString), s.faulted = false →
    exec (.frameUnrecognised F) s = .next { s with log := s.log ++ [.classified F .unrecognizedFrame none] }

/-- R107. Under the source's table, UnrecognizedFrame is the result exactly when (a) no prefix matches, (b) a report
prefix matches and the frame is shorter than 32, 39 or 23 bytes, or (c) the Ack prefix matches, P_ACK_EXACT holds and
the frame is not one byte long. -/
def Obligations.UnrecognizedExactlyWhen : Prop :=
  ∀ (cfg : Config) (F : ByteString), cfg.fmt = .source →
    (decodeFrame cfg F = .unrecognizedFrame ↔
      (F.length = 0 ∨ (∃ b rest, F = b :: rest ∧ b ≠ 0x3C ∧ b ≠ 0xE5) ∨ F = [0x3C] ∨
        ∃ b rest, F = 0x3C :: b :: rest ∧ b ≠ 0x32 ∧ b ≠ 0x96 ∧ b ≠ 0x64) ∨
      ((∃ rest, F = 0x3C :: 0x32 :: rest ∧ F.length < 32) ∨ (∃ rest, F = 0x3C :: 0x96 :: rest ∧ F.length < 39) ∨
        ∃ rest, F = 0x3C :: 0x64 :: rest ∧ F.length < 23) ∨
      ((∃ rest, F = 0xE5 :: rest) ∧ cfg.ackExact = true ∧ F.length ≠ 1))

/-- R69, which the spec marks as derived from R59. The four prefixes of the source's table are pairwise exclusive: no
frame matches two of them, so first match wins selects at most one format. -/
def Obligations.PrefixesAreExclusive : Prop :=
  ∀ (F : ByteString) (f g : Format),
    matchesLead (FormatTable.source.leadOf f) F = true → matchesLead (FormatTable.source.leadOf g) F = true →
    f = g ∧ classify .source F = some f

/-- R108. Field extraction under the source's table, byte by byte: each field at its fixed offset, the byte at the
lower offset the less significant, for every frame of at least the format's minimum length. -/
def Obligations.ExtractionFollowsTheByteMaps : Prop :=
  ∀ (F : ByteString) (b : Nat → Byte), (∀ i, i < F.length → F[i]? = some (b i)) →
    (32 ≤ F.length →
      extract FormatTable.source.activeReport F =
        { identity := some { deviceManufData := b 6 ++ b 5 ++ b 4, serialNumber := b 3 ++ b 2 },
          accFlowFlag := b 8, accFlowRaw := b 14 ++ b 13 ++ b 12 ++ b 11 ++ b 10 ++ b 9,
          instFlowFlag := b 15, instFlowRaw := b 19 ++ b 18 ++ b 17 ++ b 16, flowSign := b 20,
          tempFlag := b 24, waterTempRaw := b 26 ++ b 25, status1 := b 28, status2 := b 29,
          validChecksum := decide (b 30 = sum8 (F.take (F.length - 2))),
          validStopByte := decide (b 31 = 0x16) }) ∧
    (39 ≤ F.length →
      extract FormatTable.source.passiveReportWithId F =
        { identity := some { deviceManufData := b 6 ++ b 5 ++ b 4, serialNumber := b 3 ++ b 2 },
          accFlowFlag := b 8, accFlowRaw := b 14 ++ b 13 ++ b 12 ++ b 11 ++ b 10 ++ b 9,
          instFlowFlag := b 22, instFlowRaw := b 26 ++ b 25 ++ b 24 ++ b 23, flowSign := b 27,
          tempFlag := b 31, waterTempRaw := b 33 ++ b 32, status1 := b 35, status2 := b 36,
          validChecksum := decide (b 37 = sum8 (F.take (F.length - 2))),
          validStopByte := decide (b 38 = 0x16) }) ∧
    (23 ≤ F.length →
      extract FormatTable.source.passiveReportNoId F =
        { identity := none,
          accFlowFlag := b 2, accFlowRaw := b 8 ++ b 7 ++ b 6 ++ b 5 ++ b 4 ++ b 3,
          instFlowFlag := b 9, instFlowRaw := b 13 ++ b 12 ++ b 11 ++ b 10, flowSign := b 14,
          tempFlag := b 15, waterTempRaw := b 17 ++ b 16, status1 := b 19, status2 := b 20,
          validChecksum := decide (b 21 = sum8 (F.take (F.length - 2))),
          validStopByte := decide (b 22 = 0x16) })

/-- R44 and R114, which the spec marks as derived from R83, R106, R108 and R109. Under any well-formed layout the
fields of an over-length frame are those of its first `minLen` bytes, with the stop-byte check: no byte outside the
frame is read and no extra byte is a field. -/
def Obligations.ExtraBytesAreNoFields : Prop :=
  ∀ (L : ReportLayout) (F : ByteString), L.wellFormed = true → L.minLen ≤ F.length →
    extract L F =
      { extract L (F.take L.minLen) with validChecksum := checksumHolds F L.chkOff }

/-- R27, R110. A result that carries a reading has both validity flags true in it, comes from a frame of at least its
format's minimum length whose two checks hold, and carries that format's fields. -/
def Obligations.OnlyValidatedReadingsAreReturned : Prop :=
  ∀ (cfg : Config) (F : ByteString) (r : Reading), readingOf (decodeFrame cfg F) = some r →
    r.validChecksum = true ∧ r.validStopByte = true ∧
    ∃ f : ReportFormat, classify cfg.fmt F = some (.report f) ∧ decodeFrame cfg F = reportKind f r ∧
      (cfg.fmt.layout f).minLen ≤ F.length ∧ r = extract (cfg.fmt.layout f) F

/-- R113, which the spec marks as derived from R104, R109 and R82(e). Under the source's table, changing one byte at
an offset of 2 or more, of a frame at or above its format's minimum length, keeps the format; if the byte lies in
`F[0..len-2]` and is not the checksum byte, and the checksum was right, the result is ValidationFailed with that
format and a false checksum flag. -/
def Obligations.OneChangedByteIsDetected : Prop :=
  ∀ (cfg : Config) (F : ByteString) (f : ReportFormat) (i : Nat) (x y : Byte), cfg.fmt = .source →
    classify cfg.fmt F = some (.report f) → (cfg.fmt.layout f).minLen ≤ F.length → 2 ≤ i → F[i]? = some x → y ≠ x →
    classify cfg.fmt (F.set i y) = some (.report f) ∧
    ((∃ r, decodeFrame cfg (F.set i y) = reportKind f r) ∨
      ∃ vc vs, decodeFrame cfg (F.set i y) = .validationFailed f vc vs) ∧
    (i + 2 < F.length → i ≠ (cfg.fmt.layout f).chkOff → checksumHolds F (cfg.fmt.layout f).chkOff = true →
      ∃ vs, decodeFrame cfg (F.set i y) = .validationFailed f false vs)

/-- R77, R59. The kind codes of the six results; 6 and 7 are never produced; a report's format code is the kind code
of its result. -/
def Obligations.ResultCodesAreTheSpecs : Prop :=
  (∀ d : DecodeResult, (kindCode d).toNat ≤ 5) ∧
  kindCode .ack = 0 ∧ kindCode .unrecognizedFrame = 5 ∧
  (∀ f vc vs, kindCode (.validationFailed f vc vs) = 4) ∧
  (∀ f r, kindCode (reportKind f r) = formatCode (.report f)) ∧
  formatCode .ack = 0 ∧ formatCode (.report .activeReport) = 1 ∧
  formatCode (.report .passiveReportWithId) = 2 ∧ formatCode (.report .passiveReportNoId) = 3

/-! ### Interpretation -/

/-- R65; R125, which the spec marks as derived from R65 and R67. Under the source's table a report carries its
identity exactly when its format does, whatever its value and whatever the flags, and the outputs beside the reading
show it. -/
def Obligations.IdentityIsPresentByFormat : Prop :=
  ∀ (cfg : Config) (F : ByteString) (f : ReportFormat) (r : Reading), cfg.fmt = .source →
    decodeFrame cfg F = reportKind f r →
    (r.identity.isSome = true ↔ f ≠ .passiveReportNoId) ∧
    advisoryOf (decodeFrame cfg F) = some (interpret r) ∧ (interpret r).identity = r.identity

/-- R117, R120. The accumulated flow: unit and presence by the flag, absent (never 0) for any other flag, and the
split at 12 bits. -/
def Obligations.AccumulatedFlowInterpretation : Prop :=
  ∀ r : Reading,
    ((r.accFlowFlag = 0x0A ∨ r.accFlowFlag = 0x1A) →
      ∃ a, (interpret r).accFlow = some a ∧ a.raw = r.accFlowRaw ∧
        a.unit = (if r.accFlowFlag = 0x0A then .liters else .cubicMeters) ∧
        a.int.toNat = r.accFlowRaw.toNat / 2 ^ 12 ∧ a.frac.toNat = r.accFlowRaw.toNat % 2 ^ 12) ∧
    (r.accFlowFlag ≠ 0x0A → r.accFlowFlag ≠ 0x1A →
      (interpret r).accFlow = none ∧ accUnit r.accFlowFlag = .unknown)

/-- R118, R121, R122. The instantaneous flow: present exactly for flag 0x0B, split at 8 bits, negative exactly for the
whole sign byte 0x80; absent with its sign otherwise. -/
def Obligations.InstantaneousFlowInterpretation : Prop :=
  ∀ r : Reading,
    (r.instFlowFlag = 0x0B →
      ∃ a, (interpret r).instFlow = some a ∧ a.raw = r.instFlowRaw ∧
        (a.negative = true ↔ r.flowSign = 0x80) ∧
        a.int.toNat = r.instFlowRaw.toNat / 2 ^ 8 ∧ a.frac.toNat = r.instFlowRaw.toNat % 2 ^ 8) ∧
    (r.instFlowFlag ≠ 0x0B → (interpret r).instFlow = none)

/-- R119, R123. The water temperature: present exactly for flag 0x0D, split at 8 bits, without a sign. -/
def Obligations.WaterTemperatureInterpretation : Prop :=
  ∀ r : Reading,
    (r.tempFlag = 0x0D →
      ∃ a, (interpret r).waterTemp = some a ∧ a.raw = r.waterTempRaw ∧
        a.int.toNat = r.waterTempRaw.toNat / 2 ^ 8 ∧ a.frac.toNat = r.waterTempRaw.toNat % 2 ^ 8) ∧
    (r.tempFlag ≠ 0x0D → (interpret r).waterTemp = none)

/-- R126. The four status predicates are bit 5 of status1 and bits 5, 3 and 2 of status2, whatever the flags. -/
def Obligations.StatusBitInterpretation : Prop :=
  ∀ r : Reading,
    (interpret r).emptyTube = r.status1.getLsbD 5 ∧ (interpret r).chipError = r.status2.getLsbD 5 ∧
    (interpret r).wrongDirection = r.status2.getLsbD 3 ∧ (interpret r).rateOutOfRange = r.status2.getLsbD 2

/-! ### Control, status, reset -/

/-- R31, R29. A sample of STATUS returns the word whose bits are the seven conditions and 0, and changes nothing of
the block; after reset it is 0x00. That it may come in a faulted block and between the bytes of one read as well is
the model's choice (log 18). -/
def Obligations.StatusWordShowsTheState : Prop :=
  statusWord State.reset = 0x00 ∧
  ∀ (s : State) (rest : List Input), s.trace = .sampleStatus :: rest →
    ∃ v : Byte, step s = .next { s with trace := rest, log := s.log ++ [.status v] } ∧
      (v.getLsbD 0 = true ↔ s.phase = .halted) ∧ (v.getLsbD 1 = true ↔ s.phase = .inRead) ∧
      v.getLsbD 2 = s.stopReq ∧ (v.getLsbD 3 = true ↔ s.q ≠ []) ∧ v.getLsbD 4 = s.fBufOvf ∧
      v.getLsbD 5 = s.fQOvf ∧ v.getLsbD 6 = s.refused ∧ v.getLsbD 7 = false

/-- R30, R95. A write of CTRL looks at bit 0 only: 1 performs STOP, 0 has no effect, the other bits are ignored and
such a write is not refused. Model's choices: that an open read makes no difference and that a write of 0 has its
(empty) step in a faulted block too (log 18), and that a write of 1 has none there (log 6). -/
def Obligations.CtrlWriteLooksAtBitZero : Prop :=
  ∀ (s : State) (v : Byte) (rest : List Input), s.trace = .writeCtrl v :: rest →
    (v.getLsbD 0 = true → s.faulted = false → step s = .next { s with stopReq := true, trace := rest }) ∧
    (v.getLsbD 0 = true → s.faulted = true → step s = .fault .quiescent) ∧
    (v.getLsbD 0 = false → step s = .next { s with trace := rest })

/-- R142. Reset in any state, a faulted one included, writes every state element to its reset value; the parameters,
the inputs still to come and the log are outside the block (log 19), and `midRead` is cleared (log 24): the model's
choices. -/
def Obligations.ResetWorksInEveryState : Prop :=
  ∀ (s : State) (rest : List Input), s.trace = .reset :: rest →
    step s = .next { State.reset with cfg := s.cfg, trace := rest, log := s.log ++ [.wasReset] }

/-- R36. The reset values the spec gives, and STATUS after reset. -/
def Obligations.ResetValuesAreTheSpecs : Prop :=
  State.reset.buf = [] ∧ State.reset.phase = .top ∧ State.reset.stopReq = false ∧ State.reset.q = [] ∧
  State.reset.fBufOvf = false ∧ State.reset.fQOvf = false ∧ State.reset.refused = false ∧
  statusWord State.reset = 0x00

/-- R37 and R143, which the spec marks as derived from R36, R89 and R142. After reset the FA's only enabled step is
ASM_ISSUE, and a POP returns none. "Not enabled" is `notEnabled` (the model's choice, log 4). -/
def Obligations.FirstStepsAfterReset : Prop :=
  exec .asmIssue State.reset = .next { State.reset with phase := .inRead } ∧
  exec .asmHalt State.reset = .fault .notEnabled ∧
  exec .pop State.reset = .next { State.reset with log := [.popped none] }

/-- R17, R46. The CONSUMER's operations, the FD on a frame, CMD and the refusals leave the FA's `buf` and `phase` and
the stop flag alone; all but POP leave `q` alone; none sets a fault bit. Model's choices: that `midRead` is kept, so
that a refused word inside a read leaves the read open (log 2), and what the FRAME rows (log 11) and CMD (log 12) are.
-/
def Obligations.ConsumerLeavesTheAssemblerAlone : Prop :=
  ∀ (s t : State) (i : Instr),
    (i = .pop ∨ (∃ F, i = .decode F) ∨ (∃ bs, i = .checksum bs) ∨ (∃ w, i = .refusedWord w) ∨
      (∃ hi lo, i = .cmd hi lo) ∨ (∃ F, i = .frameActiveReport F) ∨ (∃ F, i = .frameAck F) ∨
      (∃ F, i = .framePassiveReportWithId F) ∨ (∃ F, i = .framePassiveReportNoId F) ∨
      ∃ F, i = .frameUnrecognised F) →
    exec i s = .next t →
    t.buf = s.buf ∧ t.phase = s.phase ∧ t.stopReq = s.stopReq ∧ t.fBufOvf = s.fBufOvf ∧ t.fQOvf = s.fQOvf ∧
      t.midRead = s.midRead ∧ (i ≠ .pop → t.q = s.q)

/-- R45, R48, R94. The FA's and the CHANNEL's operations and STOP never remove or change a frame of the queue: what
they leave is the queue they found, with at most the whole buffer added at its tail. -/
def Obligations.AssemblerOnlyAddsAtTheTail : Prop :=
  ∀ (s t : State) (i : Instr),
    (i = .asmIssue ∨ i = .asmHalt ∨ i = .rxTimeout ∨ i = .stop ∨ (∃ bs, i = .rxChunk bs) ∨
      ∃ more d, i = .rxByte more d) →
    exec i s = .next t →
    (t.q = s.q ∧ t.log = s.log) ∨
      (i = .rxTimeout ∧ s.buf ≠ [] ∧ t.q = s.q ++ [s.buf] ∧ t.log = s.log ++ [.pushed s.buf] ∧ t.buf = [])

/-! ### Encoding -/

/-- R73, R74, R70, R58. Decoding the code of any operation the spec admits, with every operand at every value, gives
the operation back. -/
def Obligations.DecodeInvertsEncode : Prop :=
  ∀ (cfg : Config) (i : Instr), i.wellFormed cfg = true → decode cfg (encode i) = .ok i

/-- R70, R73, R75(a). What the decoder gives is always an operation the spec admits. -/
def Obligations.DecoderGivesWellFormedOperations : Prop :=
  ∀ (cfg : Config) (c : Code) (i : Instr), decode cfg c = .ok i → i.wellFormed cfg = true

/-- R73, R74, R76. No bit of a trace word is dropped: the code of what a word decodes to has that word. That an
operand beside a word other than DECODE and CHECKSUM is ignored is the model's choice (log 15). -/
def Obligations.EncodeInvertsDecodeOfWords : Prop :=
  ∀ (cfg : Config) (w : TraceWord) (operand : ByteString) (i : Instr), decode cfg (.word w operand) = .ok i →
    (∃ operand', encode i = .word w operand' ∧ (operand' = operand ∨ operand' = [])) ∧
    (i = .decode operand ∨ i = .checksum operand ∨ decode cfg (.word w []) = .ok i)

/-- R74, R79, R70. Words and frames written out from the spec decode to the operations they stand for. -/
def Obligations.WrittenOutCodesDecode : Prop :=
  decode .default (.word 0b000110111011 []) = .ok (.rxByte true 0xBB) ∧
  decode .default (.word 0b000011001100 []) = .ok (.rxByte false 0xCC) ∧
  decode .default (.word 0b001000000000 []) = .ok .rxTimeout ∧
  decode .default (.word 0b010000000000 []) = .ok .stop ∧
  decode .default (.word 0b011000000000 []) = .ok .pop ∧
  decode .default (.word 0b100000000000 [0xE5]) = .ok (.decode [0xE5]) ∧
  decode .default (.word 0b101000000000 [0x01]) = .ok (.checksum [0x01]) ∧
  decode .default (.word 0b110000000000 []) = .ok .asmIssue ∧
  decode .default (.word 0b111000000000 []) = .ok .asmHalt ∧
  decode .default (.frame [0xE5]) = .ok (.frameAck [0xE5])

/-- R16, R51. A step at a code that decodes to an operation is that operation's meaning on the state with the input
taken. -/
def Obligations.StepRunsTheDecodedOperation : Prop :=
  ∀ (s : State) (c : Code) (rest : List Input) (i : Instr), s.trace = .operation c :: rest →
    decode s.cfg c = .ok i → step s = exec i { s with trace := rest }

/-! ### The invariant -/

/-- R20, R23, R24, and R26, which the spec marks as derived from R23, R94, R90 and R96. Every step from a state with
the invariant gives a state with it. -/
def Obligations.EveryStepKeepsInv : Prop :=
  ∀ s t : State, Inv s → step s = .next t → Inv t

/-- R36, with R26, which the spec marks as derived. The reset state has the invariant. -/
def Obligations.ResetHasInv : Prop := Inv State.reset
end

