-- ==== Sys2Proof/Laws/Cve.lean ====
section
/-!
SUPPORT. The checksum check on frames of at least two bytes, and bytes within a frame.
-/

namespace Sys2Proof.Machine

@[simp] theorem checkedSum_of_two_le {F : ByteString} (h : 2 ≤ F.length) :
    checkedSum F = sum8 (F.take (F.length - 2)) := by
  simp [checkedSum, h]

theorem checksumHolds_of_two_le {F : ByteString} (c : Nat) (h : 2 ≤ F.length) :
    checksumHolds F c = (byteAt F c == sum8 (F.take (F.length - 2))) := by
  rw [checksumHolds, checkedSum_of_two_le h]

theorem byteAt_of_getElem? {F : ByteString} {i : Nat} {b : Byte} (h : F[i]? = some b) : byteAt F i = b := by
  simp [byteAt, h]

end Sys2Proof.Machine
end

