-- ==== Sys2Proof/Laws/State.lean ====
section
/-!
SUPPORT. The state's updates, one lemma per field: no later proof unfolds a record update.
-/

namespace Sys2Proof.Machine

/-! `State.setFault_bufOvf` -/

@[simp] theorem State.setFault_bufOvf_buf (s : State) : (s.setFault .bufOvf).buf = s.buf := rfl
@[simp] theorem State.setFault_bufOvf_phase (s : State) : (s.setFault .bufOvf).phase = s.phase := rfl
@[simp] theorem State.setFault_bufOvf_stopReq (s : State) : (s.setFault .bufOvf).stopReq = s.stopReq := rfl
@[simp] theorem State.setFault_bufOvf_q (s : State) : (s.setFault .bufOvf).q = s.q := rfl
@[simp] theorem State.setFault_bufOvf_fBufOvf (s : State) : (s.setFault .bufOvf).fBufOvf = true := rfl
@[simp] theorem State.setFault_bufOvf_fQOvf (s : State) : (s.setFault .bufOvf).fQOvf = s.fQOvf := rfl
@[simp] theorem State.setFault_bufOvf_refused (s : State) : (s.setFault .bufOvf).refused = s.refused := rfl
@[simp] theorem State.setFault_bufOvf_midRead (s : State) : (s.setFault .bufOvf).midRead = s.midRead := rfl
@[simp] theorem State.setFault_bufOvf_cfg (s : State) : (s.setFault .bufOvf).cfg = s.cfg := rfl
@[simp] theorem State.setFault_bufOvf_trace (s : State) : (s.setFault .bufOvf).trace = s.trace := rfl
@[simp] theorem State.setFault_bufOvf_log (s : State) : (s.setFault .bufOvf).log = s.log := rfl
@[simp] theorem State.setFault_bufOvf_faulted (s : State) : (s.setFault .bufOvf).faulted = true := by simp [State.faulted]

/-! `State.setFault_qOvf` -/

@[simp] theorem State.setFault_qOvf_buf (s : State) : (s.setFault .qOvf).buf = s.buf := rfl
@[simp] theorem State.setFault_qOvf_phase (s : State) : (s.setFault .qOvf).phase = s.phase := rfl
@[simp] theorem State.setFault_qOvf_stopReq (s : State) : (s.setFault .qOvf).stopReq = s.stopReq := rfl
@[simp] theorem State.setFault_qOvf_q (s : State) : (s.setFault .qOvf).q = s.q := rfl
@[simp] theorem State.setFault_qOvf_fBufOvf (s : State) : (s.setFault .qOvf).fBufOvf = s.fBufOvf := rfl
@[simp] theorem State.setFault_qOvf_fQOvf (s : State) : (s.setFault .qOvf).fQOvf = true := rfl
@[simp] theorem State.setFault_qOvf_refused (s : State) : (s.setFault .qOvf).refused = s.refused := rfl
@[simp] theorem State.setFault_qOvf_midRead (s : State) : (s.setFault .qOvf).midRead = s.midRead := rfl
@[simp] theorem State.setFault_qOvf_cfg (s : State) : (s.setFault .qOvf).cfg = s.cfg := rfl
@[simp] theorem State.setFault_qOvf_trace (s : State) : (s.setFault .qOvf).trace = s.trace := rfl
@[simp] theorem State.setFault_qOvf_log (s : State) : (s.setFault .qOvf).log = s.log := rfl
@[simp] theorem State.setFault_qOvf_faulted (s : State) : (s.setFault .qOvf).faulted = true := by simp [State.faulted]

/-! `State.markRefused` -/

@[simp] theorem State.markRefused_buf (s : State) : s.markRefused.buf = s.buf := rfl
@[simp] theorem State.markRefused_phase (s : State) : s.markRefused.phase = s.phase := rfl
@[simp] theorem State.markRefused_stopReq (s : State) : s.markRefused.stopReq = s.stopReq := rfl
@[simp] theorem State.markRefused_q (s : State) : s.markRefused.q = s.q := rfl
@[simp] theorem State.markRefused_fBufOvf (s : State) : s.markRefused.fBufOvf = s.fBufOvf := rfl
@[simp] theorem State.markRefused_fQOvf (s : State) : s.markRefused.fQOvf = s.fQOvf := rfl
@[simp] theorem State.markRefused_refused (s : State) : s.markRefused.refused = true := rfl
@[simp] theorem State.markRefused_midRead (s : State) : s.markRefused.midRead = s.midRead := rfl
@[simp] theorem State.markRefused_cfg (s : State) : s.markRefused.cfg = s.cfg := rfl
@[simp] theorem State.markRefused_trace (s : State) : s.markRefused.trace = s.trace := rfl
@[simp] theorem State.markRefused_log (s : State) : s.markRefused.log = s.log := rfl
@[simp] theorem State.markRefused_faulted (s : State) : s.markRefused.faulted = s.faulted := rfl

/-! `State.withTrace` -/

@[simp] theorem State.withTrace_buf (s : State) (t : List Input) : (s.withTrace t).buf = s.buf := rfl
@[simp] theorem State.withTrace_phase (s : State) (t : List Input) : (s.withTrace t).phase = s.phase := rfl
@[simp] theorem State.withTrace_stopReq (s : State) (t : List Input) : (s.withTrace t).stopReq = s.stopReq := rfl
@[simp] theorem State.withTrace_q (s : State) (t : List Input) : (s.withTrace t).q = s.q := rfl
@[simp] theorem State.withTrace_fBufOvf (s : State) (t : List Input) : (s.withTrace t).fBufOvf = s.fBufOvf := rfl
@[simp] theorem State.withTrace_fQOvf (s : State) (t : List Input) : (s.withTrace t).fQOvf = s.fQOvf := rfl
@[simp] theorem State.withTrace_refused (s : State) (t : List Input) : (s.withTrace t).refused = s.refused := rfl
@[simp] theorem State.withTrace_midRead (s : State) (t : List Input) : (s.withTrace t).midRead = s.midRead := rfl
@[simp] theorem State.withTrace_cfg (s : State) (t : List Input) : (s.withTrace t).cfg = s.cfg := rfl
@[simp] theorem State.withTrace_trace (s : State) (t : List Input) : (s.withTrace t).trace = t := rfl
@[simp] theorem State.withTrace_log (s : State) (t : List Input) : (s.withTrace t).log = s.log := rfl
@[simp] theorem State.withTrace_faulted (s : State) (t : List Input) : (s.withTrace t).faulted = s.faulted := rfl

/-! `State.emit` -/

@[simp] theorem State.emit_buf (s : State) (e : Event) : (s.emit e).buf = s.buf := rfl
@[simp] theorem State.emit_phase (s : State) (e : Event) : (s.emit e).phase = s.phase := rfl
@[simp] theorem State.emit_stopReq (s : State) (e : Event) : (s.emit e).stopReq = s.stopReq := rfl
@[simp] theorem State.emit_q (s : State) (e : Event) : (s.emit e).q = s.q := rfl
@[simp] theorem State.emit_fBufOvf (s : State) (e : Event) : (s.emit e).fBufOvf = s.fBufOvf := rfl
@[simp] theorem State.emit_fQOvf (s : State) (e : Event) : (s.emit e).fQOvf = s.fQOvf := rfl
@[simp] theorem State.emit_refused (s : State) (e : Event) : (s.emit e).refused = s.refused := rfl
@[simp] theorem State.emit_midRead (s : State) (e : Event) : (s.emit e).midRead = s.midRead := rfl
@[simp] theorem State.emit_cfg (s : State) (e : Event) : (s.emit e).cfg = s.cfg := rfl
@[simp] theorem State.emit_trace (s : State) (e : Event) : (s.emit e).trace = s.trace := rfl
@[simp] theorem State.emit_log (s : State) (e : Event) : (s.emit e).log = s.log ++ [e] := rfl
@[simp] theorem State.emit_faulted (s : State) (e : Event) : (s.emit e).faulted = s.faulted := rfl

/-! `State.noteRead` -/

@[simp] theorem State.noteRead_buf (s : State) (m : Bool) : (s.noteRead m).buf = s.buf := rfl
@[simp] theorem State.noteRead_phase (s : State) (m : Bool) : (s.noteRead m).phase = s.phase := rfl
@[simp] theorem State.noteRead_stopReq (s : State) (m : Bool) : (s.noteRead m).stopReq = s.stopReq := rfl
@[simp] theorem State.noteRead_q (s : State) (m : Bool) : (s.noteRead m).q = s.q := rfl
@[simp] theorem State.noteRead_fBufOvf (s : State) (m : Bool) : (s.noteRead m).fBufOvf = s.fBufOvf := rfl
@[simp] theorem State.noteRead_fQOvf (s : State) (m : Bool) : (s.noteRead m).fQOvf = s.fQOvf := rfl
@[simp] theorem State.noteRead_refused (s : State) (m : Bool) : (s.noteRead m).refused = s.refused := rfl
@[simp] theorem State.noteRead_midRead (s : State) (m : Bool) : (s.noteRead m).midRead = m := rfl
@[simp] theorem State.noteRead_cfg (s : State) (m : Bool) : (s.noteRead m).cfg = s.cfg := rfl
@[simp] theorem State.noteRead_trace (s : State) (m : Bool) : (s.noteRead m).trace = s.trace := rfl
@[simp] theorem State.noteRead_log (s : State) (m : Bool) : (s.noteRead m).log = s.log := rfl
@[simp] theorem State.noteRead_faulted (s : State) (m : Bool) : (s.noteRead m).faulted = s.faulted := rfl

/-! `State.append` -/

@[simp] theorem State.append_buf (s : State) (bs : ByteString) (m : Bool) : (s.append bs m).buf = s.buf ++ bs := rfl
@[simp] theorem State.append_phase (s : State) (bs : ByteString) (m : Bool) : (s.append bs m).phase = if m then s.phase else .top := rfl
@[simp] theorem State.append_stopReq (s : State) (bs : ByteString) (m : Bool) : (s.append bs m).stopReq = s.stopReq := rfl
@[simp] theorem State.append_q (s : State) (bs : ByteString) (m : Bool) : (s.append bs m).q = s.q := rfl
@[simp] theorem State.append_fBufOvf (s : State) (bs : ByteString) (m : Bool) : (s.append bs m).fBufOvf = s.fBufOvf := rfl
@[simp] theorem State.append_fQOvf (s : State) (bs : ByteString) (m : Bool) : (s.append bs m).fQOvf = s.fQOvf := rfl
@[simp] theorem State.append_refused (s : State) (bs : ByteString) (m : Bool) : (s.append bs m).refused = s.refused := rfl
@[simp] theorem State.append_midRead (s : State) (bs : ByteString) (m : Bool) : (s.append bs m).midRead = m := rfl
@[simp] theorem State.append_cfg (s : State) (bs : ByteString) (m : Bool) : (s.append bs m).cfg = s.cfg := rfl
@[simp] theorem State.append_trace (s : State) (bs : ByteString) (m : Bool) : (s.append bs m).trace = s.trace := rfl
@[simp] theorem State.append_log (s : State) (bs : ByteString) (m : Bool) : (s.append bs m).log = s.log := rfl
@[simp] theorem State.append_faulted (s : State) (bs : ByteString) (m : Bool) : (s.append bs m).faulted = s.faulted := rfl

/-! `State.endEmptyRead` -/

@[simp] theorem State.endEmptyRead_buf (s : State) : s.endEmptyRead.buf = s.buf := rfl
@[simp] theorem State.endEmptyRead_phase (s : State) : s.endEmptyRead.phase = .top := rfl
@[simp] theorem State.endEmptyRead_stopReq (s : State) : s.endEmptyRead.stopReq = s.stopReq := rfl
@[simp] theorem State.endEmptyRead_q (s : State) : s.endEmptyRead.q = s.q := rfl
@[simp] theorem State.endEmptyRead_fBufOvf (s : State) : s.endEmptyRead.fBufOvf = s.fBufOvf := rfl
@[simp] theorem State.endEmptyRead_fQOvf (s : State) : s.endEmptyRead.fQOvf = s.fQOvf := rfl
@[simp] theorem State.endEmptyRead_refused (s : State) : s.endEmptyRead.refused = s.refused := rfl
@[simp] theorem State.endEmptyRead_midRead (s : State) : s.endEmptyRead.midRead = s.midRead := rfl
@[simp] theorem State.endEmptyRead_cfg (s : State) : s.endEmptyRead.cfg = s.cfg := rfl
@[simp] theorem State.endEmptyRead_trace (s : State) : s.endEmptyRead.trace = s.trace := rfl
@[simp] theorem State.endEmptyRead_log (s : State) : s.endEmptyRead.log = s.log := rfl
@[simp] theorem State.endEmptyRead_faulted (s : State) : s.endEmptyRead.faulted = s.faulted := rfl

/-! `State.pushFrame` -/

@[simp] theorem State.pushFrame_buf (s : State) : s.pushFrame.buf = [] := rfl
@[simp] theorem State.pushFrame_phase (s : State) : s.pushFrame.phase = .top := rfl
@[simp] theorem State.pushFrame_stopReq (s : State) : s.pushFrame.stopReq = s.stopReq := rfl
@[simp] theorem State.pushFrame_q (s : State) : s.pushFrame.q = s.q ++ [s.buf] := rfl
@[simp] theorem State.pushFrame_fBufOvf (s : State) : s.pushFrame.fBufOvf = s.fBufOvf := rfl
@[simp] theorem State.pushFrame_fQOvf (s : State) : s.pushFrame.fQOvf = s.fQOvf := rfl
@[simp] theorem State.pushFrame_refused (s : State) : s.pushFrame.refused = s.refused := rfl
@[simp] theorem State.pushFrame_midRead (s : State) : s.pushFrame.midRead = s.midRead := rfl
@[simp] theorem State.pushFrame_cfg (s : State) : s.pushFrame.cfg = s.cfg := rfl
@[simp] theorem State.pushFrame_trace (s : State) : s.pushFrame.trace = s.trace := rfl
@[simp] theorem State.pushFrame_log (s : State) : s.pushFrame.log = s.log ++ [.pushed s.buf] := rfl
@[simp] theorem State.pushFrame_faulted (s : State) : s.pushFrame.faulted = s.faulted := rfl

/-! `State.issueRead` -/

@[simp] theorem State.issueRead_buf (s : State) : s.issueRead.buf = s.buf := rfl
@[simp] theorem State.issueRead_phase (s : State) : s.issueRead.phase = .inRead := rfl
@[simp] theorem State.issueRead_stopReq (s : State) : s.issueRead.stopReq = s.stopReq := rfl
@[simp] theorem State.issueRead_q (s : State) : s.issueRead.q = s.q := rfl
@[simp] theorem State.issueRead_fBufOvf (s : State) : s.issueRead.fBufOvf = s.fBufOvf := rfl
@[simp] theorem State.issueRead_fQOvf (s : State) : s.issueRead.fQOvf = s.fQOvf := rfl
@[simp] theorem State.issueRead_refused (s : State) : s.issueRead.refused = s.refused := rfl
@[simp] theorem State.issueRead_midRead (s : State) : s.issueRead.midRead = s.midRead := rfl
@[simp] theorem State.issueRead_cfg (s : State) : s.issueRead.cfg = s.cfg := rfl
@[simp] theorem State.issueRead_trace (s : State) : s.issueRead.trace = s.trace := rfl
@[simp] theorem State.issueRead_log (s : State) : s.issueRead.log = s.log := rfl
@[simp] theorem State.issueRead_faulted (s : State) : s.issueRead.faulted = s.faulted := rfl

/-! `State.haltLoop` -/

@[simp] theorem State.haltLoop_buf (s : State) : s.haltLoop.buf = [] := rfl
@[simp] theorem State.haltLoop_phase (s : State) : s.haltLoop.phase = .halted := rfl
@[simp] theorem State.haltLoop_stopReq (s : State) : s.haltLoop.stopReq = s.stopReq := rfl
@[simp] theorem State.haltLoop_q (s : State) : s.haltLoop.q = s.q := rfl
@[simp] theorem State.haltLoop_fBufOvf (s : State) : s.haltLoop.fBufOvf = s.fBufOvf := rfl
@[simp] theorem State.haltLoop_fQOvf (s : State) : s.haltLoop.fQOvf = s.fQOvf := rfl
@[simp] theorem State.haltLoop_refused (s : State) : s.haltLoop.refused = s.refused := rfl
@[simp] theorem State.haltLoop_midRead (s : State) : s.haltLoop.midRead = s.midRead := rfl
@[simp] theorem State.haltLoop_cfg (s : State) : s.haltLoop.cfg = s.cfg := rfl
@[simp] theorem State.haltLoop_trace (s : State) : s.haltLoop.trace = s.trace := rfl
@[simp] theorem State.haltLoop_log (s : State) : s.haltLoop.log = s.log := rfl
@[simp] theorem State.haltLoop_faulted (s : State) : s.haltLoop.faulted = s.faulted := rfl

/-! `State.requestStop` -/

@[simp] theorem State.requestStop_buf (s : State) : s.requestStop.buf = s.buf := rfl
@[simp] theorem State.requestStop_phase (s : State) : s.requestStop.phase = s.phase := rfl
@[simp] theorem State.requestStop_stopReq (s : State) : s.requestStop.stopReq = true := rfl
@[simp] theorem State.requestStop_q (s : State) : s.requestStop.q = s.q := rfl
@[simp] theorem State.requestStop_fBufOvf (s : State) : s.requestStop.fBufOvf = s.fBufOvf := rfl
@[simp] theorem State.requestStop_fQOvf (s : State) : s.requestStop.fQOvf = s.fQOvf := rfl
@[simp] theorem State.requestStop_refused (s : State) : s.requestStop.refused = s.refused := rfl
@[simp] theorem State.requestStop_midRead (s : State) : s.requestStop.midRead = s.midRead := rfl
@[simp] theorem State.requestStop_cfg (s : State) : s.requestStop.cfg = s.cfg := rfl
@[simp] theorem State.requestStop_trace (s : State) : s.requestStop.trace = s.trace := rfl
@[simp] theorem State.requestStop_log (s : State) : s.requestStop.log = s.log := rfl
@[simp] theorem State.requestStop_faulted (s : State) : s.requestStop.faulted = s.faulted := rfl

/-! `State.afterReset` -/

@[simp] theorem State.afterReset_buf (s : State) : s.afterReset.buf = [] := rfl
@[simp] theorem State.afterReset_phase (s : State) : s.afterReset.phase = .top := rfl
@[simp] theorem State.afterReset_stopReq (s : State) : s.afterReset.stopReq = false := rfl
@[simp] theorem State.afterReset_q (s : State) : s.afterReset.q = [] := rfl
@[simp] theorem State.afterReset_fBufOvf (s : State) : s.afterReset.fBufOvf = false := rfl
@[simp] theorem State.afterReset_fQOvf (s : State) : s.afterReset.fQOvf = false := rfl
@[simp] theorem State.afterReset_refused (s : State) : s.afterReset.refused = false := rfl
@[simp] theorem State.afterReset_midRead (s : State) : s.afterReset.midRead = false := rfl
@[simp] theorem State.afterReset_cfg (s : State) : s.afterReset.cfg = s.cfg := rfl
@[simp] theorem State.afterReset_trace (s : State) : s.afterReset.trace = s.trace := rfl
@[simp] theorem State.afterReset_log (s : State) : s.afterReset.log = s.log ++ [.wasReset] := rfl
@[simp] theorem State.afterReset_faulted (s : State) : s.afterReset.faulted = false := rfl

/-! `State.giveResult`: the log only -/

@[simp] theorem State.giveResult_buf (s : State) (F : ByteString) (d : DecodeResult) : (s.giveResult F d).buf = s.buf := rfl
@[simp] theorem State.giveResult_phase (s : State) (F : ByteString) (d : DecodeResult) : (s.giveResult F d).phase = s.phase := rfl
@[simp] theorem State.giveResult_stopReq (s : State) (F : ByteString) (d : DecodeResult) : (s.giveResult F d).stopReq = s.stopReq := rfl
@[simp] theorem State.giveResult_q (s : State) (F : ByteString) (d : DecodeResult) : (s.giveResult F d).q = s.q := rfl
@[simp] theorem State.giveResult_fBufOvf (s : State) (F : ByteString) (d : DecodeResult) : (s.giveResult F d).fBufOvf = s.fBufOvf := rfl
@[simp] theorem State.giveResult_fQOvf (s : State) (F : ByteString) (d : DecodeResult) : (s.giveResult F d).fQOvf = s.fQOvf := rfl
@[simp] theorem State.giveResult_refused (s : State) (F : ByteString) (d : DecodeResult) : (s.giveResult F d).refused = s.refused := rfl
@[simp] theorem State.giveResult_midRead (s : State) (F : ByteString) (d : DecodeResult) : (s.giveResult F d).midRead = s.midRead := rfl
@[simp] theorem State.giveResult_cfg (s : State) (F : ByteString) (d : DecodeResult) : (s.giveResult F d).cfg = s.cfg := rfl
@[simp] theorem State.giveResult_trace (s : State) (F : ByteString) (d : DecodeResult) : (s.giveResult F d).trace = s.trace := rfl
@[simp] theorem State.giveResult_log (s : State) (F : ByteString) (d : DecodeResult) : (s.giveResult F d).log = s.log ++ [.decoded F d (advisoryOf d)] := rfl
@[simp] theorem State.giveResult_faulted (s : State) (F : ByteString) (d : DecodeResult) : (s.giveResult F d).faulted = s.faulted := rfl

/-! `State.giveFrameResult`: the log only -/

@[simp] theorem State.giveFrameResult_buf (s : State) (F : ByteString) (d : DecodeResult) : (s.giveFrameResult F d).buf = s.buf := rfl
@[simp] theorem State.giveFrameResult_phase (s : State) (F : ByteString) (d : DecodeResult) : (s.giveFrameResult F d).phase = s.phase := rfl
@[simp] theorem State.giveFrameResult_stopReq (s : State) (F : ByteString) (d : DecodeResult) : (s.giveFrameResult F d).stopReq = s.stopReq := rfl
@[simp] theorem State.giveFrameResult_q (s : State) (F : ByteString) (d : DecodeResult) : (s.giveFrameResult F d).q = s.q := rfl
@[simp] theorem State.giveFrameResult_fBufOvf (s : State) (F : ByteString) (d : DecodeResult) : (s.giveFrameResult F d).fBufOvf = s.fBufOvf := rfl
@[simp] theorem State.giveFrameResult_fQOvf (s : State) (F : ByteString) (d : DecodeResult) : (s.giveFrameResult F d).fQOvf = s.fQOvf := rfl
@[simp] theorem State.giveFrameResult_refused (s : State) (F : ByteString) (d : DecodeResult) : (s.giveFrameResult F d).refused = s.refused := rfl
@[simp] theorem State.giveFrameResult_midRead (s : State) (F : ByteString) (d : DecodeResult) : (s.giveFrameResult F d).midRead = s.midRead := rfl
@[simp] theorem State.giveFrameResult_cfg (s : State) (F : ByteString) (d : DecodeResult) : (s.giveFrameResult F d).cfg = s.cfg := rfl
@[simp] theorem State.giveFrameResult_trace (s : State) (F : ByteString) (d : DecodeResult) : (s.giveFrameResult F d).trace = s.trace := rfl
@[simp] theorem State.giveFrameResult_log (s : State) (F : ByteString) (d : DecodeResult) : (s.giveFrameResult F d).log = s.log ++ [.classified F d (advisoryOf d)] := rfl
@[simp] theorem State.giveFrameResult_faulted (s : State) (F : ByteString) (d : DecodeResult) : (s.giveFrameResult F d).faulted = s.faulted := rfl

/-! `State.popFrame`: the queue and the log only -/

@[simp] theorem State.popFrame_buf (s : State) : s.popFrame.buf = s.buf := by unfold State.popFrame; split <;> rfl
@[simp] theorem State.popFrame_phase (s : State) : s.popFrame.phase = s.phase := by unfold State.popFrame; split <;> rfl
@[simp] theorem State.popFrame_stopReq (s : State) : s.popFrame.stopReq = s.stopReq := by unfold State.popFrame; split <;> rfl
@[simp] theorem State.popFrame_fBufOvf (s : State) : s.popFrame.fBufOvf = s.fBufOvf := by unfold State.popFrame; split <;> rfl
@[simp] theorem State.popFrame_fQOvf (s : State) : s.popFrame.fQOvf = s.fQOvf := by unfold State.popFrame; split <;> rfl
@[simp] theorem State.popFrame_refused (s : State) : s.popFrame.refused = s.refused := by unfold State.popFrame; split <;> rfl
@[simp] theorem State.popFrame_midRead (s : State) : s.popFrame.midRead = s.midRead := by unfold State.popFrame; split <;> rfl
@[simp] theorem State.popFrame_cfg (s : State) : s.popFrame.cfg = s.cfg := by unfold State.popFrame; split <;> rfl
@[simp] theorem State.popFrame_trace (s : State) : s.popFrame.trace = s.trace := by unfold State.popFrame; split <;> rfl
@[simp] theorem State.popFrame_faulted (s : State) : s.popFrame.faulted = s.faulted := by
  simp [State.faulted]

theorem State.popFrame_nil (s : State) (h : s.q = []) :
    s.popFrame = { s with log := s.log ++ [.popped none] } := by
  simp [State.popFrame, h]

theorem State.popFrame_cons (s : State) (F : ByteString) (rest : List ByteString) (h : s.q = F :: rest) :
    s.popFrame = { s with q := rest, log := s.log ++ [.popped (some F)] } := by
  simp [State.popFrame, h]

end Sys2Proof.Machine
end

