-- ==== Sys2Proof/Laws/Ops.lean ====
section
/-!
SUPPORT. What each shared operation can do, said once: the gates, a read's bytes, the end of a read, the meanings by
inversion, one input, one step.
-/

namespace Sys2Proof.Machine

/-! ### The gates -/

theorem whenEnabled_next {s t : State} {en : Bool} {act : State → Result} (h : whenEnabled s en act = .next t) :
    s.faulted = false ∧ en = true ∧ act s = .next t := by
  unfold whenEnabled at h
  cases hf : s.faulted <;> cases en <;> simp_all

theorem whenEnabled_true {s : State} {en : Bool} (act : State → Result) (hf : s.faulted = false) (he : en = true) :
    whenEnabled s en act = act s := by
  simp [whenEnabled, hf, he]

theorem whenEnabled_false {s : State} {en : Bool} (act : State → Result) (hf : s.faulted = false) (he : en = false) :
    whenEnabled s en act = .fault .notEnabled := by
  simp [whenEnabled, hf, he]

theorem whenEnabled_faulted {s : State} (en : Bool) (act : State → Result) (hf : s.faulted = true) :
    whenEnabled s en act = .fault .quiescent := by
  simp [whenEnabled, hf]

theorem atWord_midRead {s : State} (en : Bool) (act : State → Result) (h : s.midRead = true) :
    atWord s en act = .next s.markRefused := by
  simp [atWord, h]

theorem atWord_outside {s : State} (en : Bool) (act : State → Result) (h : s.midRead = false) :
    atWord s en act = whenEnabled s en act := by
  simp [atWord, h]

theorem atWord_next {s t : State} {en : Bool} {act : State → Result} (h : atWord s en act = .next t) :
    (s.midRead = true ∧ t = s.markRefused) ∨
      (s.midRead = false ∧ s.faulted = false ∧ en = true ∧ act s = .next t) := by
  cases hm : s.midRead
  · rw [atWord_outside _ _ hm] at h
    exact .inr ⟨rfl, whenEnabled_next h⟩
  · rw [atWord_midRead _ _ hm] at h
    cases h
    exact .inl ⟨rfl, rfl⟩

/-! ### The capacities -/

theorem bufferOverflows_true {s : State} {n : Nat} :
    s.bufferOverflows n = true ↔ ∃ c, s.cfg.frameCap = some c ∧ c < s.buf.length + n := by
  unfold State.bufferOverflows
  cases s.cfg.frameCap <;> simp

theorem bufferOverflows_false {s : State} {n : Nat} :
    s.bufferOverflows n = false ↔ ∀ c, s.cfg.frameCap = some c → s.buf.length + n ≤ c := by
  unfold State.bufferOverflows
  cases s.cfg.frameCap <;> simp

theorem queueFull_true {s : State} : s.queueFull = true ↔ s.cfg.queueCap = some s.q.length := by
  unfold State.queueFull
  cases s.cfg.queueCap <;> simp [eq_comm]

theorem queueFull_false {s : State} : s.queueFull = false ↔ s.cfg.queueCap ≠ some s.q.length := by
  simp [← queueFull_true]

/-! ### A read's results -/

theorem receive_next {bs : ByteString} {more : Bool} {s t : State} (h : receive bs more s = .next t) :
    (s.bufferOverflows bs.length = true ∧ t = (s.noteRead more).setFault .bufOvf) ∨
      (s.bufferOverflows bs.length = false ∧ t = s.append bs more) := by
  unfold receive raiseFault at h
  cases ho : s.bufferOverflows bs.length <;> simp_all

theorem receive_completes (bs : ByteString) (more : Bool) (s : State) : ∃ t, receive bs more s = .next t := by
  unfold receive raiseFault
  split <;> exact ⟨_, rfl⟩

theorem endRead_next {s t : State} (h : endRead s = .next t) :
    (s.buf = [] ∧ t = s.endEmptyRead) ∨
      (s.buf ≠ [] ∧ s.queueFull = true ∧ t = s.setFault .qOvf) ∨
      (s.buf ≠ [] ∧ s.queueFull = false ∧ t = s.pushFrame) := by
  unfold endRead raiseFault at h
  by_cases hb : s.buf = [] <;> cases hq : s.queueFull <;> simp_all

theorem endRead_completes (s : State) : ∃ t, endRead s = .next t := by
  unfold endRead raiseFault
  split
  · exact ⟨_, rfl⟩
  · split <;> exact ⟨_, rfl⟩

/-! ### What an operation can do -/

/-- Everything an operation can answer as a next state. -/
theorem exec_next {i : Instr} {s t : State} (h : exec i s = .next t) :
    t = s.markRefused ∨
      (∃ hi lo, i = .cmd hi lo ∧ t = s.emit (.commanded (commandFrame hi lo))) ∨
      (s.faulted = false ∧
        ((∃ more d, i = .rxByte more d ∧ s.phase = .inRead ∧ receive [d] more s = .next t) ∨
          (∃ bs, i = .rxChunk bs ∧ bs ≠ [] ∧ s.phase = .inRead ∧ receive bs false s = .next t) ∨
          (i = .rxTimeout ∧ s.midRead = false ∧ s.phase = .inRead ∧ endRead s = .next t) ∨
          (i = .stop ∧ t = s.requestStop) ∨
          (i = .pop ∧ t = s.popFrame) ∨
          (i = .asmIssue ∧ s.midRead = false ∧ s.phase = .top ∧ s.stopReq = false ∧ t = s.issueRead) ∨
          (i = .asmHalt ∧ s.midRead = false ∧ s.phase = .top ∧ s.stopReq = true ∧ t = s.haltLoop) ∨
          (∃ bs, i = .checksum bs ∧ t = s.emit (.summed (sum8 bs))) ∨
          (∃ F, i = .decode F ∧ t = s.giveResult F (decodeFrame s.cfg F)) ∨
          (∃ F d, (i = .frameActiveReport F ∨ i = .frameAck F ∨ i = .framePassiveReportWithId F ∨
            i = .framePassiveReportNoId F ∨ i = .frameUnrecognised F) ∧ t = s.giveFrameResult F d))) := by
  cases i with
  | rxByte more d =>
    obtain ⟨hf, hp, ha⟩ := whenEnabled_next (show whenEnabled _ _ _ = _ from h)
    exact .inr (.inr ⟨hf, .inl ⟨more, d, rfl, by simpa using hp, ha⟩⟩)
  | rxChunk bs =>
    obtain ⟨hf, hp, ha⟩ := whenEnabled_next (show whenEnabled _ _ _ = _ from h)
    simp only [Bool.and_eq_true, decide_eq_true_eq, Bool.not_eq_true', List.isEmpty_eq_false_iff] at hp
    exact .inr (.inr ⟨hf, .inr (.inl ⟨bs, rfl, hp.2, hp.1, ha⟩)⟩)
  | rxTimeout =>
    obtain ⟨-, rfl⟩ | ⟨hm, hf, hp, ha⟩ := atWord_next (show atWord _ _ _ = _ from h)
    · exact .inl rfl
    · exact .inr (.inr ⟨hf, .inr (.inr (.inl ⟨rfl, hm, by simpa using hp, ha⟩))⟩)
  | stop =>
    obtain ⟨-, rfl⟩ | ⟨hm, hf, hp, ha⟩ := atWord_next (show atWord _ _ _ = _ from h)
    · exact .inl rfl
    · cases ha; exact .inr (.inr ⟨hf, by simp⟩)
  | pop =>
    obtain ⟨-, rfl⟩ | ⟨hm, hf, hp, ha⟩ := atWord_next (show atWord _ _ _ = _ from h)
    · exact .inl rfl
    · cases ha; exact .inr (.inr ⟨hf, by simp⟩)
  | decode F =>
    obtain ⟨-, rfl⟩ | ⟨hm, hf, hp, ha⟩ := atWord_next (show atWord _ _ _ = _ from h)
    · exact .inl rfl
    · cases ha; exact .inr (.inr ⟨hf, by simp⟩)
  | checksum bs =>
    obtain ⟨-, rfl⟩ | ⟨hm, hf, hp, ha⟩ := atWord_next (show atWord _ _ _ = _ from h)
    · exact .inl rfl
    · cases ha; exact .inr (.inr ⟨hf, by simp⟩)
  | asmIssue =>
    obtain ⟨-, rfl⟩ | ⟨hm, hf, hp, ha⟩ := atWord_next (show atWord _ _ _ = _ from h)
    · exact .inl rfl
    · cases ha; simp only [Bool.and_eq_true, decide_eq_true_eq, Bool.not_eq_true'] at hp
      exact .inr (.inr ⟨hf, by simp [hm, hp]⟩)
  | asmHalt =>
    obtain ⟨-, rfl⟩ | ⟨hm, hf, hp, ha⟩ := atWord_next (show atWord _ _ _ = _ from h)
    · exact .inl rfl
    · cases ha; simp only [Bool.and_eq_true, decide_eq_true_eq] at hp
      exact .inr (.inr ⟨hf, by simp [hm, hp]⟩)
  | refusedWord w => cases h; exact .inl rfl
  | frameActiveReport F =>
    simp only [exec, execFrameActiveReport] at h
    obtain ⟨hf, -, ha⟩ := whenEnabled_next h
    cases ha; exact .inr (.inr ⟨hf, by simp; exact ⟨_, rfl⟩⟩)
  | frameAck F =>
    simp only [exec, execFrameAck] at h
    obtain ⟨hf, -, ha⟩ := whenEnabled_next h
    cases ha; exact .inr (.inr ⟨hf, by simp; exact ⟨_, rfl⟩⟩)
  | framePassiveReportWithId F =>
    simp only [exec, execFramePassiveReportWithId] at h
    obtain ⟨hf, -, ha⟩ := whenEnabled_next h
    cases ha; exact .inr (.inr ⟨hf, by simp; exact ⟨_, rfl⟩⟩)
  | framePassiveReportNoId F =>
    simp only [exec, execFramePassiveReportNoId] at h
    obtain ⟨hf, -, ha⟩ := whenEnabled_next h
    cases ha; exact .inr (.inr ⟨hf, by simp; exact ⟨_, rfl⟩⟩)
  | frameUnrecognised F =>
    simp only [exec, execFrameUnrecognised] at h
    obtain ⟨hf, -, ha⟩ := whenEnabled_next h
    cases ha; exact .inr (.inr ⟨hf, by simp; exact ⟨_, rfl⟩⟩)
  | cmd hi lo => cases h; exact .inr (.inl ⟨hi, lo, rfl, rfl⟩)

/-- Everything one input can answer as a next state. -/
theorem runInput_next {x : Input} {s t : State} (h : runInput x s = .next t) :
    (∃ c i, x = .operation c ∧ decode s.cfg c = .ok i ∧ exec i s = .next t) ∨
      (x = .decodePopped ∧ ((∃ F, lastPopped s.log = some F ∧ exec (.decode F) s = .next t) ∨ t = s)) ∨
      (∃ v, x = .writeCtrl v ∧ ((ctrlStop v = true ∧ s.faulted = false ∧ t = s.requestStop) ∨
        (ctrlStop v = false ∧ t = s))) ∨
      (x = .sampleStatus ∧ t = s.emit (.status (statusWord s))) ∨
      (x = .reset ∧ t = s.afterReset) := by
  cases x with
  | operation c =>
    simp only [runInput, runCode] at h
    cases hd : decode s.cfg c with
    | ok i => rw [hd] at h; exact .inl ⟨c, i, rfl, hd, h⟩
    | error e => rw [hd] at h; cases h
  | decodePopped =>
    simp only [runInput, runDecodePopped] at h
    cases hl : lastPopped s.log with
    | some F => rw [hl] at h; exact .inr (.inl ⟨rfl, .inl ⟨F, rfl, h⟩⟩)
    | none => rw [hl] at h; cases h; exact .inr (.inl ⟨rfl, .inr rfl⟩)
  | writeCtrl v =>
    simp only [runInput, runWriteCtrl] at h
    cases hv : ctrlStop v with
    | true =>
      rw [hv, if_pos rfl] at h
      obtain ⟨hf, -, ha⟩ := whenEnabled_next h
      cases ha
      exact .inr (.inr (.inl ⟨v, rfl, .inl ⟨hv, hf, rfl⟩⟩))
    | false => rw [hv, if_neg (by simp)] at h; cases h; exact .inr (.inr (.inl ⟨v, rfl, .inr ⟨hv, rfl⟩⟩))
  | sampleStatus => cases h; exact .inr (.inr (.inr (.inl ⟨rfl, rfl⟩)))
  | reset => cases h; exact .inr (.inr (.inr (.inr ⟨rfl, rfl⟩)))

/-! ### The popped frame and the CONSUMER's steps -/

@[simp] theorem lastPopped_append_popped (l : List Event) (r : Option ByteString) :
    lastPopped (l ++ [.popped r]) = r := by
  simp [lastPopped]

theorem lastPopped_append_other (l : List Event) {e : Event} (h : ∀ r, e ≠ .popped r) :
    lastPopped (l ++ [e]) = lastPopped l := by
  simp only [lastPopped, List.foldl_append, List.foldl_cons, List.foldl_nil]

/-- Which inputs are the CONSUMER's depends on the parameters and on the frame last popped only. -/
theorem isConsumerStep_congr {s t : State} (hc : t.cfg = s.cfg) (hp : lastPopped t.log = lastPopped s.log) (x : Input) :
    isConsumerStep t x = isConsumerStep s x := by
  cases x <;> simp only [isConsumerStep, hc, hp]

/-! ### One step and runs of steps -/

theorem step_cons {s : State} {x : Input} {rest : List Input} (h : s.trace = x :: rest) :
    step s = runInput x (s.withTrace rest) := by
  simp [step, h]

theorem step_nil {s : State} (h : s.trace = []) : step s = endOfTrace s := by
  simp [step, h]

/-- Everything one step can answer as a next state. -/
theorem step_next {s t : State} (h : step s = .next t) :
    (s.trace = [] ∧ ((s.midRead = true ∧ t = s.markRefused) ∨ (s.midRead = false ∧ t = s))) ∨
      ∃ x rest, s.trace = x :: rest ∧ runInput x (s.withTrace rest) = .next t := by
  cases ht : s.trace with
  | nil =>
    rw [step_nil ht, endOfTrace] at h
    cases hm : s.midRead <;> rw [hm] at h <;> cases h <;> simp
  | cons x rest => rw [step_cons ht] at h; exact .inr ⟨x, rest, rfl, h⟩

theorem run_zero (s : State) : run 0 s = .next s := rfl

theorem run_succ {s t : State} (n : Nat) (h : step s = .next t) : run (n + 1) s = run n t := by
  simp [run, h]

theorem run_add {s t : State} {n : Nat} (m : Nat) (h : run n s = .next t) : run (n + m) s = run m t := by
  induction n generalizing s with
  | zero => cases h; simp
  | succ n ih =>
    rw [Nat.add_right_comm]
    cases hs : step s with
    | next u =>
      rw [run_succ _ hs] at h ⊢
      exact ih h
    | fault r => simp [run, hs] at h
    | refused r => simp [run, hs] at h

end Sys2Proof.Machine
end

