-- ==== Sys2Proof/Laws/Decode.lean ====
section
/-!
SUPPORT. The fields of a word made from fields, what presenting a word does, prefix matching.
-/

namespace Sys2Proof

theorem getLsbD_mkWord (op : BitVec 3) (more : Bool) (d : Byte) (i : Nat) :
    (mkWord op more d).getLsbD i =
      if i < 8 then d.getLsbD i else if i < 9 then more else op.getLsbD (i - 9) := by
  simp only [mkWord, BitVec.getLsbD_append]
  split
  · rfl
  · by_cases h : i < 9
    · have : i - 8 = 0 := by omega
      simp [h, this]
    · have : ¬ i - 8 < 1 := by omega
      simp [h, this, Nat.sub_sub]

@[simp] theorem opField_mkWord (op : BitVec 3) (more : Bool) (d : Byte) : opField (mkWord op more d) = op.toNat := by
  have : (mkWord op more d).extractLsb' 9 3 = op := by
    ext i hi
    have h1 : ¬ 9 + i < 8 := by omega
    have h2 : ¬ 9 + i < 9 := by omega
    simp [BitVec.getElem_extractLsb', getLsbD_mkWord, h1, h2, BitVec.getLsbD_eq_getElem hi]
  simp [opField, this]

@[simp] theorem moreField_mkWord (op : BitVec 3) (more : Bool) (d : Byte) : moreField (mkWord op more d) = more := by
  rw [moreField, getLsbD_mkWord]
  rfl

@[simp] theorem dataField_mkWord (op : BitVec 3) (more : Bool) (d : Byte) : dataField (mkWord op more d) = d := by
  ext i hi
  simp only [dataField, BitVec.getElem_extractLsb', getLsbD_mkWord, Nat.zero_add, hi, if_true]
  exact BitVec.getLsbD_eq_getElem hi

/-- A word is made of its three fields. -/
theorem mkWord_fields (w : TraceWord) : mkWord (w.extractLsb' 9 3) (moreField w) (dataField w) = w := by
  apply BitVec.eq_of_getLsbD_eq
  intro i hi
  rw [getLsbD_mkWord]
  split
  · next h => simp [dataField, h]
  · split
    · next h => have : i = 8 := by omega
                subst this; rfl
    · have h : i - 9 < 3 := by omega
      have h' : 9 + (i - 9) = i := by omega
      simp [h, h']

/-- An RX_BYTE word decodes to RX_BYTE. -/
theorem decodeWord_rxByte (more : Bool) (d : Byte) (operand : ByteString) :
    decodeWord (mkWord 0 more d) operand = .rxByte more d := by
  simp [decodeWord]

namespace Machine

/-- Presenting a trace word runs the operation it decodes to. -/
theorem step_word {s : State} {w : TraceWord} {operand : ByteString} {rest : List Input} {i : Instr}
    (ht : s.trace = .operation (.word w operand) :: rest) (hd : decodeWord w operand = i) :
    step s = exec i (s.withTrace rest) := by
  rw [step_cons ht]
  simp [runInput, runCode, decode, hd]

end Machine

/-- Matching a prefix is beginning with it. -/
theorem matchesLead_iff {lead F : ByteString} : matchesLead lead F = true ↔ lead <+: F := by
  simp only [matchesLead, Bool.and_eq_true, decide_eq_true_eq, beq_iff_eq]
  constructor
  · rintro ⟨-, h⟩
    rw [← h]
    exact List.take_prefix _ _
  · rintro ⟨G, rfl⟩
    simp

theorem hasLead_iff {lead F : ByteString} : hasLead lead F = true ↔ lead <+: F := by
  simp [hasLead]

theorem matchesLead_eq_hasLead (lead F : ByteString) : matchesLead lead F = hasLead lead F := by
  rw [Bool.eq_iff_iff, matchesLead_iff, hasLead_iff]

end Sys2Proof
end

