-- ==== Sys2Proof/Tests/Slice0.lean ====
section
/-!
SUPPORT. Tests. Expected values come from spec/95_test_vectors.md (named in each comment) or are written out from the
encodings of spec/30_encoding.md; the witnesses show states and operands that meet the hypotheses of the statements.
-/

namespace Sys2Proof.Tests

open Sys2Proof.Machine

/-! ### The named frames of 95_test_vectors.md and small states -/

/-- A valid PassiveReportNoId. -/
def n23 : ByteString :=
  [0x3C, 0x64, 0x0A, 0x00, 0x10, 0x00, 0x00, 0x00, 0x00, 0x0B, 0x00, 0x12, 0x00, 0x00, 0x00, 0x0D, 0x00, 0x19, 0x00,
   0x00, 0x00, 0xFD, 0x16]

/-- A valid ActiveReport. -/
def a32 : ByteString :=
  [0x3C, 0x32, 0x34, 0x12, 0x78, 0x56, 0x9A, 0x00, 0x1A, 0xBC, 0xA0, 0x00, 0x00, 0x00, 0x00, 0x0B, 0x34, 0x12, 0x00,
   0x00, 0x80, 0x00, 0x00, 0x00, 0x0D, 0x80, 0x1A, 0x00, 0x20, 0x2C, 0x56, 0x16]

/-- A valid PassiveReportWithId. -/
def w39 : ByteString :=
  [0x3C, 0x96, 0x05, 0x04, 0x03, 0x02, 0x01, 0x00, 0x0A, 0xBC, 0x9A, 0x78, 0x56, 0x34, 0x12, 0x00, 0x00, 0x00, 0x00,
   0x00, 0x00, 0x00, 0x0C, 0xEF, 0xBE, 0xAD, 0xDE, 0x00, 0x00, 0x00, 0x00, 0x0D, 0x10, 0x0F, 0x00, 0x00, 0x04, 0xC9,
   0x16]

/-- A frame no row takes, of 40 bytes (V-D10). -/
def alien : ByteString := 0x3C :: 0x00 :: List.replicate 38 0x00

/-- A read is outstanding, with these bytes in the buffer. -/
def reading (buf : ByteString) : State := { State.reset with phase := .inRead, buf := buf }

/-- A queue, at the top of the loop. -/
def queued (q : List ByteString) : State := { State.reset with q := q }

/-- Stopped at the top of the loop, with a partial frame. -/
def stopped (buf : ByteString) : State := { State.reset with stopReq := true, buf := buf }

/-- Halted. -/
def halted : State := { State.reset with phase := .halted, stopReq := true }

/-- Inside a read: the previous word was an RX_BYTE with `M = 1`. -/
def inside (buf : ByteString) : State := { reading buf with midRead := true }

/-- The state with a bounded buffer. -/
def withFrameCap (c : Nat) (s : State) : State := { s with cfg := { s.cfg with frameCap := some c } }

/-- The state with a bounded queue. -/
def withQueueCap (c : Nat) (s : State) : State := { s with cfg := { s.cfg with queueCap := some c } }

/-- The default parameters, but P_ACK_EXACT false. -/
def looseAck : Config := { Config.default with ackExact := false }

/-- The state with these inputs to take. -/
def given (xs : List Input) (s : State) : State := { s with trace := xs }

/-! ### WellFormed refuses ill-formed terms -/

theorem test_wf_empty_chunk : Instr.wellFormed .default (.rxChunk []) = false := by decide

theorem test_wf_refused_words :
    Instr.wellFormed .default (.refusedWord 0x200) = false ∧ Instr.wellFormed .default (.refusedWord 0x0FF) = false ∧
    Instr.wellFormed .default (.refusedWord 0x201) = true ∧ Instr.wellFormed .default (.refusedWord 0xF00) = true := by
  decide

theorem test_wf_frame_rows :
    Instr.wellFormed .default (.frameActiveReport n23) = false ∧
    Instr.wellFormed .default (.frameActiveReport (a32.take 31)) = false ∧
    Instr.wellFormed .default (.frameAck [0xE5, 0x00]) = false ∧ Instr.wellFormed looseAck (.frameAck [0xE5, 0x00]) = true ∧
    Instr.wellFormed .default (.framePassiveReportWithId a32) = false ∧
    Instr.wellFormed .default (.framePassiveReportWithId (w39.take 38)) = false ∧
    Instr.wellFormed .default (.framePassiveReportNoId (n23.take 22)) = false ∧
    Instr.wellFormed .default (.frameUnrecognised [0xE5]) = false ∧
    Instr.wellFormed .default (.frameUnrecognised n23) = false := by
  decide

/-- One offset after another is moved to the minimum length, or the minimum length below the prefix. -/
theorem test_wf_layout :
    let L := FormatTable.source.activeReport
    FormatTable.source.wellFormed = true ∧ { L with minLen := 1 }.wellFormed = false ∧
    { L with lead := List.replicate 33 0 }.wellFormed = false ∧ { L with idOff := some 28 }.wellFormed = false ∧
    { L with accFlowFlagOff := 32 }.wellFormed = false ∧ { L with accFlowOff := 27 }.wellFormed = false ∧
    { L with instFlowFlagOff := 32 }.wellFormed = false ∧ { L with instFlowOff := 29 }.wellFormed = false ∧
    { L with flowSignOff := 32 }.wellFormed = false ∧ { L with tempFlagOff := 32 }.wellFormed = false ∧
    { L with waterTempOff := 31 }.wellFormed = false ∧ { L with status1Off := 32 }.wellFormed = false ∧
    { L with status2Off := 32 }.wellFormed = false ∧ { L with chkOff := 32 }.wellFormed = false ∧
    { L with stopOff := 32 }.wellFormed = false := by
  decide

theorem test_wf_table :
    { FormatTable.source with activeReport := { FormatTable.source.activeReport with minLen := 0 } }.wellFormed = false ∧
    { FormatTable.source with
      passiveReportWithId := { FormatTable.source.passiveReportWithId with minLen := 0 } }.wellFormed = false ∧
    { FormatTable.source with
      passiveReportNoId := { FormatTable.source.passiveReportNoId with minLen := 0 } }.wellFormed = false := by
  decide

/-! ### Decoding: codes written out from 30_encoding.md -/

theorem test_decode_rxByte :
    decode .default (.word 0x1BB []) = .ok (.rxByte true 0xBB) ∧
    decode .default (.word 0x0CC []) = .ok (.rxByte false 0xCC) := ⟨rfl, rfl⟩

/-- R93's example, and a word with `M = 1` at the end. -/
theorem test_decode_rxChunk :
    decode .default (.read [0x1BB, 0x0CC]) = .ok (.rxChunk [0xBB, 0xCC]) ∧
    decode .default (.read [0x1BB, 0x1CC]) = .error .malformedRead ∧
    decode .default (.read []) = .error .malformedRead := ⟨rfl, rfl, rfl⟩

/-- The words of R79. -/
theorem test_decode_words :
    decode .default (.word 0x200 []) = .ok .rxTimeout ∧ decode .default (.word 0x400 []) = .ok .stop ∧
    decode .default (.word 0x600 []) = .ok .pop ∧ decode .default (.word 0xC00 []) = .ok .asmIssue ∧
    decode .default (.word 0xE00 []) = .ok .asmHalt ∧ decode .default (.word 0x800 n23) = .ok (.decode n23) ∧
    decode .default (.word 0xA00 [0xFF, 0xFF]) = .ok (.checksum [0xFF, 0xFF]) :=
  ⟨rfl, rfl, rfl, rfl, rfl, rfl, rfl⟩

/-- R75(a), with D and with M non-zero (V-A16). -/
theorem test_decode_refusedWord :
    decode .default (.word 0x201 []) = .ok (.refusedWord 0x201) ∧
    decode .default (.word 0xF00 []) = .ok (.refusedWord 0xF00) := ⟨rfl, rfl⟩

/-- R70, on the named frames and V-D10. -/
theorem test_decode_frames :
    decode .default (.frame a32) = .ok (.frameActiveReport a32) ∧ decode .default (.frame [0xE5]) = .ok (.frameAck [0xE5]) ∧
    decode .default (.frame w39) = .ok (.framePassiveReportWithId w39) ∧
    decode .default (.frame n23) = .ok (.framePassiveReportNoId n23) ∧
    decode .default (.frame alien) = .ok (.frameUnrecognised alien) := ⟨rfl, rfl, rfl, rfl, rfl⟩

/-- V-D2, V-D7, V-D8, V-D9, V-D13, V-D24. -/
theorem test_decode_unrecognised_frames :
    decode .default (.frame [0xE5, 0x00]) = .ok (.frameUnrecognised [0xE5, 0x00]) ∧
    decode .default (.frame (n23.take 22)) = .ok (.frameUnrecognised (n23.take 22)) ∧
    decode .default (.frame []) = .ok (.frameUnrecognised []) ∧
    decode .default (.frame [0x3C]) = .ok (.frameUnrecognised [0x3C]) ∧
    decode .default (.frame (a32.take 31)) = .ok (.frameUnrecognised (a32.take 31)) ∧
    decode .default (.frame (n23.set 1 0x32)) = .ok (.frameUnrecognised (n23.set 1 0x32)) :=
  ⟨rfl, rfl, rfl, rfl, rfl, rfl⟩

/-- V-S1, and a wrong checksum byte. -/
theorem test_decode_cmd :
    decode .default (.command [0xFE, 0xFE, 0x11, 0x5B, 0x0F, 0x7B, 0x16]) = .ok (.cmd 0x5B 0x0F) ∧
    decode .default (.command [0xFE, 0xFE, 0x11, 0x5B, 0x0F, 0x77, 0x16]) = .error .malformedCommand := ⟨rfl, rfl⟩

/-- The numbers of opcode_table.json. -/
theorem test_decode_table_words :
    decodeTableWord 12 0x1BB = some (.rxByte true 0xBB) ∧ decodeTableWord 16 0x400 = some .stop ∧
    decodeTableWord 16 0x3C32 = some (.frameActiveReport (frameOfNumber 0x3C32)) ∧
    decodeTableWord 16 0xE500 = some (.frameAck [0xE5]) ∧
    decodeTableWord 16 0x3C96 = some (.framePassiveReportWithId (frameOfNumber 0x3C96)) ∧
    decodeTableWord 16 0x3C64 = some (.framePassiveReportNoId (frameOfNumber 0x3C64)) ∧
    decodeTableWord 56 0x167B0F5B11FEFE = some (.cmd 0x5B 0x0F) ∧
    decodeTableWord 32 0x00CC01BB = some (.rxChunk [0xBB, 0xCC]) := by
  decide

theorem test_fetch_word_runs :
    step (State.reset.withFetchWord 16 0xC00) = .next { State.reset with phase := .inRead } := rfl

/-! ### One step of each operation -/

/-- R89's example. -/
theorem test_asmIssue : exec .asmIssue { State.reset with buf := [0xAA] } = .next (reading [0xAA]) := rfl

/-- V-A5: stuck once stopped. -/
theorem test_asmIssue_stopped : exec .asmIssue (stopped [0x3C]) = .fault .notEnabled := rfl

/-- R90's example. -/
theorem test_asmHalt :
    exec .asmHalt { stopped [0x3C, 0x64] with q := [[0xE5]] } = .next { halted with q := [[0xE5]] } := rfl

theorem test_asmHalt_not_stopped : exec .asmHalt State.reset = .fault .notEnabled := rfl

/-- R92's example. -/
theorem test_rxChunk : exec (.rxChunk [0xCC]) (reading [0xBB]) = .next { State.reset with buf := [0xBB, 0xCC] } := rfl

/-- R129: over FRAME_CAP by one byte, nothing but the bit changes. -/
theorem test_rxChunk_overflows :
    exec (.rxChunk [0x02, 0x03]) (withFrameCap 2 (reading [0x01])) =
      .next { withFrameCap 2 (reading [0x01]) with fBufOvf := true } := rfl

/-- R93's example, its last word. -/
theorem test_rxByte : exec (.rxByte false 0xCC) (inside [0xBB]) = .next { State.reset with buf := [0xBB, 0xCC] } := rfl

/-- V-A8, its last step: STATUS is 0x12 then. -/
theorem test_rxByte_overflows :
    exec (.rxByte false 0x03) (withFrameCap 2 (inside [0x01, 0x02])) =
      .next { withFrameCap 2 (reading [0x01, 0x02]) with fBufOvf := true } ∧
    statusWord { withFrameCap 2 (reading [0x01, 0x02]) with fBufOvf := true } = 0x12 := ⟨rfl, by decide⟩

/-- R94's example. -/
theorem test_rxTimeout :
    exec .rxTimeout (reading [0xAA]) = .next { State.reset with q := [[0xAA]], log := [.pushed [0xAA]] } := rfl

/-- V-A9, its last step: STATUS is 0x2A then. -/
theorem test_rxTimeout_overflows :
    exec .rxTimeout (withQueueCap 1 { reading [0xE5] with q := [[0xE5]] }) =
      .next { withQueueCap 1 { reading [0xE5] with q := [[0xE5]] } with fQOvf := true } ∧
    statusWord { withQueueCap 1 { reading [0xE5] with q := [[0xE5]] } with fQOvf := true } = 0x2A := ⟨rfl, by decide⟩

/-- R95's example. -/
theorem test_stop : exec .stop (reading []) = .next { reading [] with stopReq := true } := rfl

/-- V-A14: STOP in HALTED has no effect. -/
theorem test_stop_halted : exec .stop halted = .next halted := rfl

/-- R96's example. -/
theorem test_pop :
    exec .pop (queued [[0xAA], [0xBB, 0xCC]]) =
      .next { queued [[0xBB, 0xCC]] with log := [.popped (some [0xAA])] } := rfl

/-- V-A10. -/
theorem test_pop_empty : exec .pop State.reset = .next { State.reset with log := [.popped none] } := rfl

/-- V-D3, V-D11, V-D12 with V-I4, V-I8, V-I9, V-I11, V-I12, V-I14, V-I16, V-I17. -/
theorem test_decode_reports :
    decodeFrame .default n23 = .passiveReportNoId
      { identity := none, accFlowFlag := 0x0A, accFlowRaw := 0x1000, instFlowFlag := 0x0B, instFlowRaw := 0x1200,
        flowSign := 0x00, tempFlag := 0x0D, waterTempRaw := 0x1900, status1 := 0x00, status2 := 0x00,
        validChecksum := true, validStopByte := true } ∧
    decodeFrame .default a32 = .activeReport
      { identity := some { deviceManufData := 0x9A5678, serialNumber := 0x1234 }, accFlowFlag := 0x1A,
        accFlowRaw := 0xA0BC, instFlowFlag := 0x0B, instFlowRaw := 0x1234, flowSign := 0x80, tempFlag := 0x0D,
        waterTempRaw := 0x1A80, status1 := 0x20, status2 := 0x2C, validChecksum := true, validStopByte := true } ∧
    decodeFrame .default w39 = .passiveReportWithId
      { identity := some { deviceManufData := 0x010203, serialNumber := 0x0405 }, accFlowFlag := 0x0A,
        accFlowRaw := 0x123456789ABC, instFlowFlag := 0x0C, instFlowRaw := 0xDEADBEEF, flowSign := 0x00,
        tempFlag := 0x0D, waterTempRaw := 0x0F10, status1 := 0x00, status2 := 0x04, validChecksum := true,
        validStopByte := true } := by
  decide

/-- V-D1, V-D2, V-D4 to V-D10, V-D14, V-D17 to V-D25 (V-D18 and V-D25 are merged frames). -/
theorem test_decode_failures :
    decodeFrame .default [0xE5] = .ack ∧ decodeFrame .default [0xE5, 0x00] = .unrecognizedFrame ∧
    decodeFrame looseAck [0xE5, 0x00] = .ack ∧
    decodeFrame .default (n23.set 4 0x11) = .validationFailed .passiveReportNoId false true ∧
    decodeFrame .default (n23.set 22 0x17) = .validationFailed .passiveReportNoId true false ∧
    decodeFrame .default ((n23.set 4 0x11).set 22 0x17) = .validationFailed .passiveReportNoId false false ∧
    decodeFrame .default (n23.take 22) = .unrecognizedFrame ∧ decodeFrame .default [] = .unrecognizedFrame ∧
    decodeFrame .default alien = .unrecognizedFrame ∧
    decodeFrame .default (n23 ++ [0x00]) = .validationFailed .passiveReportNoId false true ∧
    decodeFrame .default (0xE5 :: n23) = .unrecognizedFrame ∧ decodeFrame looseAck (0xE5 :: n23) = .ack ∧
    decodeFrame .default (a32 ++ [0xE5]) = .validationFailed .activeReport false true ∧
    decodeFrame .default (a32.set 30 0x57) = .validationFailed .activeReport false true ∧
    decodeFrame .default (w39.set 20 0x55) = .validationFailed .passiveReportWithId false true ∧
    decodeFrame .default ((w39.set 20 0x55).set 37 0x1E) = decodeFrame .default w39 ∧
    decodeFrame .default (0xFE :: 0xFE :: n23) = .unrecognizedFrame ∧
    decodeFrame .default (a32 ++ n23) = .validationFailed .activeReport false true := by
  decide

/-- V-D15: an over-length report with both checks right. -/
theorem test_decode_overlength :
    decodeFrame .default (((n23.take 18 ++ [0x03, 0x00, 0x00, 0x55, 0x16, 0x99]))) = decodeFrame .default n23 := by
  decide

theorem test_decode_step :
    exec (.decode [0xE5]) halted = .next { halted with log := [.decoded [0xE5] .ack none] } := rfl

/-- V-S4, V-S8, V-S12, V-S13, V-S7. -/
theorem test_checksum :
    exec (.checksum [0xFF, 0xFF]) State.reset = .next { State.reset with log := [.summed 0xFE] } ∧
    sum8 (n23.take 21) = 0xFD ∧ sum8 (a32.take 30) = 0x56 ∧ sum8 (w39.take 37) = 0xC9 ∧
    sum8 [0xFE, 0xFE, 0x11, 0x5B, 0x0F] = 0x77 := ⟨rfl, by decide, by decide, by decide, by decide⟩

/-- V-S2, V-S5, V-S10, V-S11. -/
theorem test_checksum_corners :
    sum8 [] = 0x00 ∧ sum8 [0x80, 0x80] = 0x00 ∧
    checksumHolds (n23 ++ [0x00]) 21 = false ∧ stopHolds (n23 ++ [0x00]) 22 = true := by
  decide

/-- V-A16: STATUS shows the refusal and IN_READ. -/
theorem test_refusedWord :
    exec (.refusedWord 0x201) (reading []) = .next { reading [] with refused := true } ∧
    statusWord { reading [0xAA] with refused := true } = 0x42 := ⟨rfl, by decide⟩

/-- V-A11: a word inside a read, its last step. -/
theorem test_word_inside_read :
    step (given [wordInput 0x200] (inside [0xAA])) = .next { inside [0xAA] with refused := true } := rfl

/-- V-A17: the trace ends inside a read. -/
theorem test_trace_ends_inside_read : step (inside [0xAA]) = .next { inside [0xAA] with refused := true } := rfl

theorem test_frameActiveReport :
    exec (.frameActiveReport (a32.set 30 0x57)) State.reset =
      .next { State.reset with log := [.classified (a32.set 30 0x57) (.validationFailed .activeReport false true) none] } := rfl

theorem test_frameAck :
    exec (.frameAck [0xE5]) State.reset = .next { State.reset with log := [.classified [0xE5] .ack none] } ∧
    exec (.frameAck [0xE5, 0x00]) State.reset =
      .next { State.reset with log := [.classified [0xE5, 0x00] .unrecognizedFrame none] } := ⟨rfl, rfl⟩

theorem test_framePassiveReportWithId :
    exec (.framePassiveReportWithId (w39.take 38)) State.reset =
      .next { State.reset with log := [.classified (w39.take 38) .unrecognizedFrame none] } := rfl

theorem test_framePassiveReportNoId :
    exec (.framePassiveReportNoId (n23.set 22 0x17)) State.reset =
      .next { State.reset with log := [.classified (n23.set 22 0x17) (.validationFailed .passiveReportNoId true false) none] } := rfl

theorem test_frameUnrecognised :
    exec (.frameUnrecognised alien) State.reset =
      .next { State.reset with log := [.classified alien .unrecognizedFrame none] } := rfl

/-- V-S1. -/
theorem test_cmd :
    exec (.cmd 0x5B 0x0F) State.reset =
      .next { State.reset with log := [.commanded [0xFE, 0xFE, 0x11, 0x5B, 0x0F, 0x7B, 0x16]] } := rfl

/-- The interpretation of A32 and W39: V-I2, V-I4, V-I9, V-I11, V-I12, V-I14, V-I16, V-I17. -/
theorem test_interpretation :
    advisoryOf (decodeFrame .default a32) = some
      { identity := some { deviceManufData := 0x9A5678, serialNumber := 0x1234 },
        accFlow := some { raw := 0xA0BC, unit := .cubicMeters, int := 0xA, frac := 0x0BC },
        instFlow := some { raw := 0x1234, negative := true, int := 0x12, frac := 0x34 },
        waterTemp := some { raw := 0x1A80, int := 0x1A, frac := 0x80 },
        emptyTube := true, chipError := true, wrongDirection := true, rateOutOfRange := true } ∧
    advisoryOf (decodeFrame .default w39) = some
      { identity := some { deviceManufData := 0x010203, serialNumber := 0x0405 },
        accFlow := some { raw := 0x123456789ABC, unit := .liters, int := 0x123456789, frac := 0xABC },
        instFlow := none, waterTemp := some { raw := 0x0F10, int := 0x0F, frac := 0x10 },
        emptyTube := false, chipError := false, wrongDirection := false, rateOutOfRange := true } := by
  decide

/-- V-I3, V-I7, V-I10, V-I13, V-I15. -/
theorem test_interpretation_corners :
    let r := extract FormatTable.source.passiveReportNoId n23
    accFlowOf { r with accFlowFlag := 0x1B } = none ∧ accInt 0xFFFFFFFFFFFF = 0xFFFFFFFFF ∧
    accFrac 0xFFFFFFFFFFFF = 0xFFF ∧ negative { r with flowSign := 0x81 } = false ∧
    negative { r with flowSign := 0xFF } = false ∧ waterTempOf { r with tempFlag := 0x00 } = none ∧
    emptyTube { r with status1 := 0xDF } = false ∧ chipError { r with status2 := 0xD3 } = false ∧
    wrongDirection { r with status2 := 0xD3 } = false ∧ rateOutOfRange { r with status2 := 0xD3 } = false := by
  decide

/-- R30: bits 7:1 of CTRL are ignored. -/
theorem test_ctrl :
    step (given [.writeCtrl 0xFE] State.reset) = .next State.reset ∧
    step (given [.writeCtrl 0xFF] State.reset) = .next { State.reset with stopReq := true } := ⟨rfl, rfl⟩

/-- V-A18: reset from a faulted state. -/
theorem test_reset :
    step (given [.reset] { reading [0x01] with fBufOvf := true, q := [[0xE5]], stopReq := true }) =
      .next { State.reset with log := [.wasReset] } := rfl

/-- P2's ending, as R145 reads it: the values popped and what DECODE gave for them. A DECODE of a frame no POP returned
and a FRAME row are no part of it. -/
theorem test_observed :
    observed { halted with
      log := [.pushed [0xE5], .popped (some [0xE5]), .decoded [0xE5] .ack none, .decoded [0x3C] .unrecognizedFrame none,
        .classified [0xE5] .ack none, .summed 0x00, .popped none] } =
      { popped := [some [0xE5], none], results := [([0xE5], .ack)], queue := [] } := by
  decide

/-- R145: a pending STOP, CTRL write or STATUS sample leaves a run ended, a pending POP or DECODE does not. -/
theorem test_ended :
    Ended (given [wordInput 0x400, .writeCtrl 0x01, .sampleStatus, .reset, wordInput 0x600] halted) ∧
    ¬ Ended (given [.sampleStatus, wordInput 0x600] halted) ∧ ¬ Ended (given [.operation (.word 0x800 [])] halted) ∧
    ¬ Ended { halted with refused := true } := by
  decide

/-! ### Witnesses: states and operands that meet a statement's hypotheses -/

theorem witness_AsmIssueStartsOneRead :
    (Ready State.reset ∧ State.reset.phase = .top ∧ State.reset.stopReq = false) ∧
    (Ready (reading []) ∧ ¬((reading []).phase = .top ∧ (reading []).stopReq = false)) ∧
    (Ready (stopped []) ∧ ¬((stopped []).phase = .top ∧ (stopped []).stopReq = false)) := by
  decide

theorem witness_AsmHaltDropsThePartialFrame :
    (Ready (stopped [0x3C]) ∧ (stopped [0x3C]).phase = .top ∧ (stopped [0x3C]).stopReq = true) ∧
    (Ready State.reset ∧ ¬(State.reset.phase = .top ∧ State.reset.stopReq = true)) := by
  decide

/-- The default capacity, a buffer filled exactly, one byte too many, and no read outstanding. -/
theorem witness_RxChunkAppendsAndEndsTheRead :
    ([0x02, 0x03] : ByteString) ≠ [] ∧
    ((reading [0x01]).faulted = false ∧ (reading [0x01]).phase = .inRead ∧ (reading [0x01]).cfg.frameCap = none) ∧
    ((withFrameCap 3 (reading [0x01])).faulted = false ∧ (withFrameCap 3 (reading [0x01])).phase = .inRead ∧
      (withFrameCap 3 (reading [0x01])).cfg.frameCap = some 3 ∧ (reading [0x01]).buf.length + 2 ≤ 3) ∧
    ((withFrameCap 2 (reading [0x01])).phase = .inRead ∧
      ∃ c, (withFrameCap 2 (reading [0x01])).cfg.frameCap = some c ∧ c < (reading [0x01]).buf.length + 2) ∧
    State.reset.faulted = false ∧ State.reset.phase ≠ .inRead :=
  ⟨by decide, by decide, by decide, ⟨rfl, 2, rfl, by decide⟩, by decide, by decide⟩

/-- The default capacity, the last byte that fits, the first that does not, and no read outstanding. -/
theorem witness_RxByteAppendsOneByte :
    ((reading []).faulted = false ∧ (reading []).phase = .inRead ∧ (reading []).cfg.frameCap = none) ∧
    ((withFrameCap 2 (inside [0x01])).faulted = false ∧ (withFrameCap 2 (inside [0x01])).phase = .inRead ∧
      (withFrameCap 2 (inside [0x01])).cfg.frameCap = some 2 ∧ (inside [0x01]).buf.length + 1 ≤ 2) ∧
    ((withFrameCap 2 (inside [0x01, 0x02])).phase = .inRead ∧
      ∃ c, (withFrameCap 2 (inside [0x01, 0x02])).cfg.frameCap = some c ∧ c < (inside [0x01, 0x02]).buf.length + 1) ∧
    State.reset.faulted = false ∧ State.reset.phase ≠ .inRead :=
  ⟨by decide, by decide, ⟨rfl, 2, rfl, by decide⟩, by decide, by decide⟩

/-- Inside a read, an empty buffer, a full buffer with room in the queue, a full queue, and no read outstanding. -/
theorem witness_RxTimeoutPushesTheWholeBuffer :
    ((inside [0xAA]).midRead = true ∧ (inside [0xAA]).faulted = false) ∧
    (Ready (reading []) ∧ (reading []).phase = .inRead ∧ (reading []).buf = []) ∧
    (Ready (withQueueCap 1 (reading [0xAA])) ∧ (reading [0xAA]).phase = .inRead ∧ (reading [0xAA]).buf ≠ [] ∧
      (withQueueCap 1 (reading [0xAA])).cfg.queueCap ≠ some (withQueueCap 1 (reading [0xAA])).q.length) ∧
    (Ready (withQueueCap 0 (reading [0xAA])) ∧ (withQueueCap 0 (reading [0xAA])).buf ≠ [] ∧
      (withQueueCap 0 (reading [0xAA])).cfg.queueCap = some (withQueueCap 0 (reading [0xAA])).q.length) ∧
    Ready State.reset ∧ State.reset.phase ≠ .inRead := by
  decide

theorem witness_StopSetsTheStopFlag :
    Ready (given [.writeCtrl 0xFF] State.reset) ∧ (0x01 : Byte).getLsbD 0 = true ∧ (0xFF : Byte).getLsbD 0 = true ∧
    (given [.writeCtrl 0xFF] State.reset).trace = .writeCtrl 0xFF :: [] := by
  decide

theorem witness_PopReturnsTheHeadOrNone :
    (Ready halted ∧ halted.q = []) ∧ Ready (queued [[0xAA], [0xBB]]) ∧ (queued [[0xAA], [0xBB]]).q = [0xAA] :: [[0xBB]] := by
  decide

theorem witness_DrainReturnsTheQueueInOrder :
    let s := given [wordInput 0x600, wordInput 0x600, .sampleStatus] (queued [[0xAA], [0xBB]])
    Ready s ∧ s.trace = List.replicate s.q.length (wordInput 0x600) ++ [.sampleStatus] := by
  decide

theorem witness_HaltedUntilReset :
    halted.phase = .halted ∧ Ready halted ∧ runInput .reset halted = .next { State.reset with log := [.wasReset] } ∧
    runInput (.writeCtrl 0x01) halted = .next halted := ⟨rfl, by decide, rfl, rfl⟩

/-- Each of the three ways to complete the outstanding read, the last byte of a longer read among them. -/
theorem witness_StoppedAssemblerHaltsAfterOneRead :
    let s := { reading [0xE5] with stopReq := true }
    let u := { inside [0xE5] with stopReq := true }
    (s.faulted = false ∧ s.stopReq = true ∧ s.phase = .inRead ∧ s.midRead = false) ∧
    (u.faulted = false ∧ u.stopReq = true ∧ u.phase = .inRead ∧ u.midRead = true) ∧
    (∃ t, exec .rxTimeout s = .next t ∧ t.faulted = false) ∧ (∃ t, exec (.rxChunk [0x00]) s = .next t ∧ t.faulted = false) ∧
    (∃ t, exec (.rxByte false 0x00) s = .next t ∧ t.faulted = false) ∧
    ∃ t, exec (.rxByte false 0x00) u = .next t ∧ t.faulted = false :=
  ⟨by decide, by decide, ⟨_, rfl, rfl⟩, ⟨_, rfl, rfl⟩, ⟨_, rfl, rfl⟩, ⟨_, rfl, rfl⟩⟩

/-- The bytes that fit exactly, and one byte too many. -/
theorem witness_ByteWordsHaveTheEffectOfTheChunk :
    let s : Nat → State := fun c => withFrameCap c (given ((readWords [0xBB, 0xCC]).map wordInput ++ []) (reading [0xAA]))
    (∀ c, (s c).faulted = false ∧ (s c).phase = .inRead ∧
      (s c).trace = (readWords [0xBB, 0xCC]).map wordInput ++ []) ∧
    (∀ c, (s 3).cfg.frameCap = some c → (s 3).buf.length + 2 ≤ c) ∧
    ∃ c, (s 2).cfg.frameCap = some c ∧ c < (s 2).buf.length + 2 :=
  ⟨fun _ => ⟨rfl, rfl, rfl⟩, fun c h => by cases h; decide, 2, rfl, by decide⟩

/-- The read results of the source's assembler example (V-A1), and one more read before a stop. -/
theorem witness_PushedFramesAreTheReadsCutAtTimeouts :
    let rs : List ReadResult := [.chunk 0xAA [], .timeout, .chunk 0xBB [], .chunk 0xCC [], .timeout]
    let s := given (assemble (iterations rs) ++ []) State.reset
    let t := given (assemble (iterations rs ++ [.stop, .halt]) ++ []) State.reset
    Ready s ∧ s.phase = .top ∧ s.stopReq = false ∧ s.cfg.frameCap = none ∧ s.cfg.queueCap = none ∧
    s.trace = assemble (iterations rs) ++ [] ∧ t.trace = assemble (iterations rs ++ [.stop, .halt]) ++ [] ∧
    cutFrames [] rs = ([[0xAA], [0xBB, 0xCC]], []) := by
  decide

theorem witness_ChunkingIsUnobservable :
    Ready State.reset ∧ State.reset.phase = .top ∧ State.reset.stopReq = false ∧ State.reset.cfg.frameCap = none ∧
    ([0xAA] : ByteString) ≠ [] ∧ ([0xBB] : ByteString) ≠ [] := by
  decide

theorem witness_PopDecodeDecodesThePoppedFrame :
    (Ready (given (assemble [.popdecode] ++ []) (queued [])) ∧
      (given (assemble [.popdecode] ++ []) (queued [])).trace = assemble [.popdecode] ++ []) ∧
    Ready (given (assemble [.popdecode] ++ []) (queued [[0xE5]])) ∧
    (given (assemble [.popdecode] ++ []) (queued [[0xE5]])).q = [0xE5] :: [] := by
  decide

/-- The states below have the invariant: each of its clauses is decided. -/
theorem inv_of_empty {s : State} (hb : s.buf = []) (hq : s.q = []) (hl : s.log = []) (h1 : s.fBufOvf = false)
    (h2 : s.fQOvf = false) (h3 : s.phase = .halted → s.stopReq = true) (h4 : s.midRead = false) : Inv s := by
  constructor <;> simp_all [inFlight]

/-- No input left; a sample still to come; a refused word still to come. -/
theorem witness_EndedRunStays :
    (Inv halted ∧ Ended halted ∧ halted.trace = []) ∧
    (∀ x : Input, Inv (given [x] halted)) ∧
    (Ended (given [.sampleStatus] halted) ∧ ∃ t, step (given [.sampleStatus] halted) = .next t) ∧
    (Ended (given [wordInput 0x201] halted) ∧
      ∃ t, step (given [wordInput 0x201] halted) = .next t ∧ t.refused = true) :=
  ⟨⟨inv_of_empty rfl rfl rfl rfl rfl (fun _ => rfl) rfl, by decide, rfl⟩,
    fun _ => inv_of_empty rfl rfl rfl rfl rfl (fun _ => rfl) rfl, ⟨by decide, _, rfl⟩, by decide, _, rfl, rfl⟩

/-- A faulted block inside a read, as an RX_BYTE with `M = 1` past FRAME_CAP leaves it, and one outside a read. -/
theorem witness_FaultedBlockIsQuiescent :
    let s := { reading [0x01] with fBufOvf := true }
    let u := withFrameCap 1 { inside [0x01] with fBufOvf := true }
    exec (.rxByte true 0x02) (withFrameCap 1 (reading [0x01])) = .next u ∧ u.faulted = true ∧ u.midRead = true ∧
    (∀ w, Instr.rxByte false 0x03 ≠ .refusedWord w) ∧ (∀ hi lo, Instr.rxByte false 0x03 ≠ .cmd hi lo) ∧
    s.faulted = true ∧ s.midRead = false ∧ { reading [0x01] with fQOvf := true }.faulted = true ∧
    (∀ w, Instr.rxTimeout ≠ .refusedWord w) ∧ (∀ hi lo, Instr.rxTimeout ≠ .cmd hi lo) ∧
    exec (.refusedWord 0x201) s = .next { s with refused := true } ∧ ∃ t, exec (.cmd 0x5B 0x0F) s = .next t :=
  ⟨rfl, rfl, rfl, fun _ => by simp, fun _ _ => by simp, rfl, rfl, rfl, fun _ => by simp, fun _ _ => by simp, rfl, _, rfl⟩

theorem witness_FaultsArePreciseAndOnlyOnOverflow :
    (∃ t, exec (.rxByte true 0x02) (withFrameCap 1 (reading [0x01])) = .next t ∧ t.faulted = true) ∧
    (∃ t, exec (.rxChunk [0x02, 0x03]) (withFrameCap 2 (reading [0x01])) = .next t ∧ t.faulted = true) ∧
    (∃ t, exec .rxTimeout (withQueueCap 0 (reading [0x01])) = .next t ∧ t.faulted = true) ∧
    (reading [0x01]).faulted = false :=
  ⟨⟨_, rfl, rfl⟩, ⟨_, rfl, rfl⟩, ⟨_, rfl, rfl⟩, rfl⟩

/-- The lowest and the highest refused word, a word inside a read, the end of a trace, an operation not enabled. -/
theorem witness_MeaninglessWordsAreRefused :
    ((0x201 : TraceWord).extractLsb' 9 3 ≠ 0 ∧ (0x201 : TraceWord).extractLsb' 0 9 ≠ 0) ∧
    ((0xFFF : TraceWord).extractLsb' 9 3 ≠ 0 ∧ (0xFFF : TraceWord).extractLsb' 0 9 ≠ 0) ∧
    (given [.operation (.word 0x201 [])] State.reset).trace = .operation (.word 0x201 []) :: [] ∧
    ((inside [0xAA]).midRead = true ∧ (0x200 : TraceWord).extractLsb' 9 3 ≠ 0 ∧
      (given [.operation (.word 0x200 [])] (inside [0xAA])).trace = .operation (.word 0x200 []) :: []) ∧
    (inside [0xAA]).trace = [] ∧ Ready State.reset ∧ ¬ enabledIn .rxTimeout State.reset.phase State.reset.stopReq := by
  refine ⟨?_, ?_, rfl, ?_, rfl, by decide, by simp [enabledIn, State.reset, State.resetWith]⟩ <;> decide

theorem witness_NextStateExactlyWhenEnabled :
    Ready State.reset ∧ enabledIn .asmIssue State.reset.phase State.reset.stopReq ∧
    ¬ enabledIn .asmHalt State.reset.phase State.reset.stopReq :=
  ⟨by decide, ⟨rfl, rfl⟩, by simp [enabledIn, State.reset, State.resetWith]⟩

theorem witness_StickyBitsStayUntilReset :
    let s := given [.sampleStatus] { halted with fBufOvf := true, fQOvf := true, refused := true }
    (∃ t, step s = .next t) ∧ (∀ rest, s.trace ≠ .reset :: rest) ∧ s.stopReq = true ∧ s.fBufOvf = true ∧
    s.fQOvf = true ∧ s.refused = true :=
  ⟨⟨_, rfl⟩, fun _ => by simp [given], rfl, rfl, rfl, rfl⟩

theorem witness_ParametersAreConstant :
    (∃ t, step (given [.reset] State.reset) = .next t) ∧ ∃ t, step State.reset = .next t := ⟨⟨_, rfl⟩, ⟨_, rfl⟩⟩

theorem witness_ChecksumReturnsTheSumMod256 : Ready State.reset ∧ Ready halted := by decide

theorem witness_SumLawsHold : ([0x01, 0x02] : ByteString).Perm [0x02, 0x01] ∧ (0x00 : Byte) ≠ 0xFF := by decide

/-- A frame of the minimum length, one with one byte more, and one with two. -/
theorem witness_ChecksumCheckSumsAllButTheFinalTwo :
    (n23[21]? = some 0xFD ∧ 2 ≤ n23.length ∧ n23.length = 21 + 2) ∧
    ((n23 ++ [0x00])[21]? = some 0xFD ∧ (n23 ++ [0x00]).length = 21 + 3) ∧
    ((n23 ++ [0x00, 0x00])[21]? = some 0xFD ∧ 2 ≤ (n23 ++ [0x00, 0x00]).length) ∧ ([0x00, 0x16] : ByteString)[0]? = some 0x00 := by
  decide

theorem witness_StopCheckLooksAtOneOffset : n23[22]? = some 0x16 ∧ (n23 ++ [0x00])[22]? = some 0x16 := by decide

theorem witness_CommandFrameIsNoReply : Config.default.fmt = .source ∧ looseAck.fmt = .source := by decide

theorem witness_DecodeReturnsAResult : Ready State.reset ∧ Ready halted ∧ Ready (reading [0xAA]) := by decide

theorem witness_DecodeDoesWhatTheFrameRowDoes : Ready State.reset ∧ Ready halted := by decide

/-- The three clauses of `result`: too short, both checks right, a check wrong; for each report format. -/
theorem witness_ReportRowsGiveTheValidatedResult :
    State.reset.faulted = false ∧ (inside [0xAA]).faulted = false ∧
    (∀ f : ReportFormat, f = .activeReport ∨ f = .passiveReportWithId ∨ f = .passiveReportNoId) ∧
    (a32.take 31).length < (FormatTable.source.layout .activeReport).minLen ∧
    (w39.take 38).length < (FormatTable.source.layout .passiveReportWithId).minLen ∧
    (n23.take 22).length < (FormatTable.source.layout .passiveReportNoId).minLen ∧
    (checksumHolds a32 30 = true ∧ stopHolds a32 31 = true) ∧ (checksumHolds w39 37 = true ∧ stopHolds w39 38 = true) ∧
    (checksumHolds n23 21 = true ∧ stopHolds n23 22 = true) ∧ checksumHolds (n23.set 4 0x11) 21 = false ∧
    stopHolds (n23.set 22 0x17) 22 = false :=
  ⟨rfl, rfl, fun f => by cases f <;> simp, by decide, by decide, by decide, by decide, by decide, by decide, by decide,
    by decide⟩

theorem witness_AckNeedsOneByteWhenExact :
    State.reset.faulted = false ∧ ([0xE5] : ByteString).length = 1 ∧
    ({ State.reset with cfg := looseAck }.faulted = false ∧ { State.reset with cfg := looseAck }.cfg.ackExact = false) ∧
    State.reset.cfg.ackExact = true ∧ ([0xE5, 0x00] : ByteString).length ≠ 1 := by
  decide

theorem witness_UnrecognisedRowIsAResult : State.reset.faulted = false ∧ (inside [0xAA]).faulted = false := by decide

theorem witness_UnrecognizedExactlyWhen : Config.default.fmt = .source ∧ looseAck.fmt = .source := by decide

theorem witness_PrefixesAreExclusive :
    matchesLead (FormatTable.source.leadOf (.report .activeReport)) a32 = true ∧
    matchesLead (FormatTable.source.leadOf .ack) [0xE5] = true ∧
    matchesLead (FormatTable.source.leadOf (.report .passiveReportWithId)) w39 = true ∧
    matchesLead (FormatTable.source.leadOf (.report .passiveReportNoId)) [0x3C, 0x64] = true := by
  decide

/-- Each format at its minimum length, and one byte above it. -/
theorem witness_ExtractionFollowsTheByteMaps :
    ((∀ i, i < a32.length → a32[i]? = some (a32.getD i 0)) ∧ 32 ≤ a32.length) ∧
    ((∀ i, i < w39.length → w39[i]? = some (w39.getD i 0)) ∧ 39 ≤ w39.length) ∧
    ((∀ i, i < n23.length → n23[i]? = some (n23.getD i 0)) ∧ 23 ≤ n23.length) ∧
    (∀ i, i < (n23 ++ [0xE5]).length → (n23 ++ [0xE5])[i]? = some ((n23 ++ [0xE5]).getD i 0)) ∧
    23 ≤ (n23 ++ [0xE5]).length := by
  decide

theorem witness_ExtraBytesAreNoFields :
    FormatTable.source.activeReport.wellFormed = true ∧ FormatTable.source.activeReport.minLen ≤ a32.length ∧
    FormatTable.source.passiveReportWithId.wellFormed = true ∧ FormatTable.source.passiveReportWithId.minLen ≤ w39.length ∧
    FormatTable.source.passiveReportNoId.wellFormed = true ∧
    FormatTable.source.passiveReportNoId.minLen ≤ (n23 ++ [0xE5]).length := by
  decide

theorem witness_OnlyValidatedReadingsAreReturned :
    readingOf (decodeFrame .default a32) = some (extract FormatTable.source.activeReport a32) ∧
    readingOf (decodeFrame .default w39) = some (extract FormatTable.source.passiveReportWithId w39) ∧
    readingOf (decodeFrame .default n23) = some (extract FormatTable.source.passiveReportNoId n23) := by
  decide

/-- The lowest and the highest offset of the last clause, for each report format. -/
theorem witness_OneChangedByteIsDetected :
    Config.default.fmt = .source ∧
    (classify .source n23 = some (.report .passiveReportNoId) ∧ 23 ≤ n23.length ∧ n23[2]? = some 0x0A ∧
      n23[20]? = some 0x00 ∧ 20 + 2 < n23.length ∧ (20 : Nat) ≠ 21 ∧ checksumHolds n23 21 = true) ∧
    (classify .source a32 = some (.report .activeReport) ∧ 32 ≤ a32.length ∧ a32[2]? = some 0x34 ∧
      a32[29]? = some 0x2C ∧ 29 + 2 < a32.length ∧ checksumHolds a32 30 = true) ∧
    (classify .source w39 = some (.report .passiveReportWithId) ∧ 39 ≤ w39.length ∧ w39[2]? = some 0x05 ∧
      w39[36]? = some 0x04 ∧ 36 + 2 < w39.length ∧ checksumHolds w39 37 = true) ∧ (0x11 : Byte) ≠ 0x0A := by
  decide

theorem witness_IdentityIsPresentByFormat :
    Config.default.fmt = .source ∧
    decodeFrame .default a32 = reportKind .activeReport (extract FormatTable.source.activeReport a32) ∧
    decodeFrame .default w39 = reportKind .passiveReportWithId (extract FormatTable.source.passiveReportWithId w39) ∧
    decodeFrame .default n23 = reportKind .passiveReportNoId (extract FormatTable.source.passiveReportNoId n23) := by
  decide

theorem witness_AccumulatedFlowInterpretation :
    (extract FormatTable.source.passiveReportNoId n23).accFlowFlag = 0x0A ∧
    (extract FormatTable.source.activeReport a32).accFlowFlag = 0x1A ∧ (0x1B : Byte) ≠ 0x0A ∧ (0x1B : Byte) ≠ 0x1A ∧
    (extract FormatTable.source.passiveReportNoId (n23.set 2 0x1B)).accFlowFlag = 0x1B := by
  decide

theorem witness_InstantaneousFlowInterpretation :
    (extract FormatTable.source.activeReport a32).instFlowFlag = 0x0B ∧
    (extract FormatTable.source.activeReport a32).flowSign = 0x80 ∧
    (extract FormatTable.source.passiveReportNoId n23).instFlowFlag = 0x0B ∧
    (extract FormatTable.source.passiveReportNoId n23).flowSign ≠ 0x80 ∧
    (extract FormatTable.source.passiveReportWithId w39).instFlowFlag ≠ 0x0B := by
  decide

theorem witness_WaterTemperatureInterpretation :
    (extract FormatTable.source.activeReport a32).tempFlag = 0x0D ∧
    (extract FormatTable.source.passiveReportNoId (n23.set 15 0x00)).tempFlag ≠ 0x0D := by
  decide

theorem witness_StatusWordShowsTheState : (given [.sampleStatus] halted).trace = .sampleStatus :: [] := rfl

theorem witness_CtrlWriteLooksAtBitZero :
    (given [.writeCtrl 0x01] State.reset).trace = .writeCtrl 0x01 :: [] ∧ (0x01 : Byte).getLsbD 0 = true ∧
    (given [.writeCtrl 0x01] State.reset).faulted = false ∧
    { given [.writeCtrl 0x01] (reading [0x01]) with fBufOvf := true }.faulted = true ∧
    { given [.writeCtrl 0x01] (reading [0x01]) with fBufOvf := true }.trace = .writeCtrl 0x01 :: [] ∧
    (0xFE : Byte).getLsbD 0 = false := by
  decide

theorem witness_ResetWorksInEveryState :
    (given [.reset] { inside [0xAA] with fBufOvf := true }).trace = .reset :: [] := rfl

theorem witness_ConsumerLeavesTheAssemblerAlone :
    (∃ t, exec .pop (queued [[0xE5]]) = .next t) ∧ (∃ t, exec (.decode n23) halted = .next t) ∧
    (∃ t, exec (.checksum []) halted = .next t) ∧ (∃ t, exec (.refusedWord 0x201) (inside [0xAA]) = .next t) ∧
    (∃ t, exec (.cmd 0x5B 0x0F) halted = .next t) ∧ (∃ t, exec (.frameActiveReport a32) halted = .next t) ∧
    (∃ t, exec (.frameAck [0xE5]) halted = .next t) ∧ (∃ t, exec (.framePassiveReportWithId w39) halted = .next t) ∧
    (∃ t, exec (.framePassiveReportNoId n23) halted = .next t) ∧ ∃ t, exec (.frameUnrecognised alien) halted = .next t :=
  ⟨⟨_, rfl⟩, ⟨_, rfl⟩, ⟨_, rfl⟩, ⟨_, rfl⟩, ⟨_, rfl⟩, ⟨_, rfl⟩, ⟨_, rfl⟩, ⟨_, rfl⟩, ⟨_, rfl⟩, ⟨_, rfl⟩⟩

theorem witness_AssemblerOnlyAddsAtTheTail :
    (∃ t, exec .asmIssue State.reset = .next t) ∧ (∃ t, exec .asmHalt (stopped [0x3C]) = .next t) ∧
    (∃ t, exec .rxTimeout { reading [0xAA] with q := [[0xE5]] } = .next t ∧ t.q = [[0xE5], [0xAA]]) ∧
    (∃ t, exec .stop State.reset = .next t) ∧ (∃ t, exec (.rxChunk [0xAA]) (reading []) = .next t) ∧
    ∃ t, exec (.rxByte true 0xAA) (reading []) = .next t :=
  ⟨⟨_, rfl⟩, ⟨_, rfl⟩, ⟨_, rfl, rfl⟩, ⟨_, rfl⟩, ⟨_, rfl⟩, ⟨_, rfl⟩⟩

/-- A well-formed operation of every constructor. -/
theorem witness_DecodeInvertsEncode :
    ∀ i ∈ ([.rxByte true 0xFF, .rxChunk [0xAA], .rxTimeout, .stop, .pop, .decode [], .checksum [], .asmIssue, .asmHalt,
      .refusedWord 0xFFF, .frameActiveReport a32, .frameAck [0xE5], .framePassiveReportWithId w39,
      .framePassiveReportNoId n23, .frameUnrecognised alien, .cmd 0xFF 0x00] : List Instr),
      i.wellFormed .default = true := by
  decide

/-- A code of every form, and of every word code. -/
theorem witness_DecoderGivesWellFormedOperations :
    decode .default (.word 0x201 []) = .ok (.refusedWord 0x201) ∧
    decode .default (.read [0x1BB, 0x0CC]) = .ok (.rxChunk [0xBB, 0xCC]) ∧
    decode .default (.frame n23) = .ok (.framePassiveReportNoId n23) ∧
    decode .default (.command [0xFE, 0xFE, 0x11, 0x00, 0x00, 0x11, 0x16]) = .ok (.cmd 0x00 0x00) := ⟨rfl, rfl, rfl, rfl⟩

theorem witness_EncodeInvertsDecodeOfWords :
    decode .default (.word 0xFFF [0x01]) = .ok (.refusedWord 0xFFF) ∧
    decode .default (.word 0x800 [0x01]) = .ok (.decode [0x01]) ∧
    decode .default (.word 0x000 []) = .ok (.rxByte false 0x00) := ⟨rfl, rfl, rfl⟩

theorem witness_StepRunsTheDecodedOperation :
    (given [.operation (.read [0x0AA])] (reading [])).trace = .operation (.read [0x0AA]) :: [] ∧
    decode .default (.read [0x0AA]) = .ok (.rxChunk [0xAA]) := ⟨rfl, rfl⟩

theorem witness_EveryStepKeepsInv :
    Inv (given [wordInput 0xC00] State.reset) ∧ step (given [wordInput 0xC00] State.reset) = .next (reading []) :=
  ⟨inv_of_empty rfl rfl rfl rfl rfl (by decide) rfl, rfl⟩

end Sys2Proof.Tests
end

/-!
PROOFS. The family 10_state: what one step does to the state, the invariant of R26, the sticky bits, the CONSUMER's
frame, validated readings, STATUS and CTRL, reset.
-/

namespace Sys2Proof.Machine

/-! ### The one change a step makes -/

/-- The changes of the state an input other than reset can make, each with what holds where it is made. -/
inductive StateChange (s : State) : State → Prop where
  | same : StateChange s s
  | refuse : StateChange s s.markRefused
  /-- An output that tells nothing of the queue. -/
  | output (e : Event) (neutral : ∀ pending, inFlightStep pending e = pending) : StateChange s (s.emit e)
  | requestStop : StateChange s s.requestStop
  | pop : StateChange s s.popFrame
  | issueRead (outside : s.midRead = false) (atTop : s.phase = .top) (going : s.stopReq = false) :
      StateChange s s.issueRead
  | halt (outside : s.midRead = false) (atTop : s.phase = .top) (stopping : s.stopReq = true) :
      StateChange s s.haltLoop
  | append (bs : ByteString) (more : Bool) (reading : s.phase = .inRead)
      (fits : s.bufferOverflows bs.length = false) : StateChange s (s.append bs more)
  | overflowBuffer (n : Nat) (more : Bool) (reading : s.phase = .inRead) (tooLong : s.bufferOverflows n = true) :
      StateChange s ((s.noteRead more).setFault .bufOvf)
  | endEmptyRead (outside : s.midRead = false) (reading : s.phase = .inRead) (empty : s.buf = []) :
      StateChange s s.endEmptyRead
  | push (outside : s.midRead = false) (reading : s.phase = .inRead) (nonEmpty : s.buf ≠ [])
      (room : s.queueFull = false) : StateChange s s.pushFrame
  | overflowQueue (outside : s.midRead = false) (reading : s.phase = .inRead) (full : s.queueFull = true) :
      StateChange s (s.setFault .qOvf)

theorem receive_change {bs : ByteString} {more : Bool} {s t : State} (reading : s.phase = .inRead)
    (h : receive bs more s = .next t) : StateChange s t := by
  obtain ⟨tooLong, rfl⟩ | ⟨fits, rfl⟩ := receive_next h
  · exact .overflowBuffer bs.length more reading tooLong
  · exact .append bs more reading fits

theorem endRead_change {s t : State} (outside : s.midRead = false) (reading : s.phase = .inRead)
    (h : endRead s = .next t) : StateChange s t := by
  obtain ⟨empty, rfl⟩ | ⟨-, full, rfl⟩ | ⟨nonEmpty, room, rfl⟩ := endRead_next h
  · exact .endEmptyRead outside reading empty
  · exact .overflowQueue outside reading full
  · exact .push outside reading nonEmpty room

/-- An operation that completes makes one of the changes. -/
theorem exec_change {i : Instr} {s t : State} (h : exec i s = .next t) : StateChange s t := by
  obtain rfl | ⟨hi, lo, -, rfl⟩ | ⟨-, hop⟩ := exec_next h
  · exact .refuse
  · exact .output _ fun _ => rfl
  · obtain ⟨more, d, -, reading, hr⟩ | ⟨bs, -, -, reading, hr⟩ | ⟨-, outside, reading, he⟩ | ⟨-, rfl⟩ | ⟨-, rfl⟩ |
      ⟨-, outside, atTop, going, rfl⟩ | ⟨-, outside, atTop, stopping, rfl⟩ | ⟨bs, -, rfl⟩ | ⟨F, -, rfl⟩ |
      ⟨F, d, -, rfl⟩ := hop
    · exact receive_change reading hr
    · exact receive_change reading hr
    · exact endRead_change outside reading he
    · exact .requestStop
    · exact .pop
    · exact .issueRead outside atTop going
    · exact .halt outside atTop stopping
    · exact .output _ fun _ => rfl
    · exact .output _ fun _ => rfl
    · exact .output _ fun _ => rfl

/-- An input that is taken makes one of the changes or is a reset. -/
theorem runInput_change {x : Input} {s t : State} (h : runInput x s = .next t) :
    StateChange s t ∨ (x = .reset ∧ t = s.afterReset) := by
  obtain ⟨c, i, -, -, hx⟩ | ⟨-, ⟨F, -, hx⟩ | rfl⟩ | ⟨v, -, ⟨-, -, rfl⟩ | ⟨-, rfl⟩⟩ | ⟨-, rfl⟩ | hreset :=
    runInput_next h
  · exact .inl (exec_change hx)
  · exact .inl (exec_change hx)
  · exact .inl .same
  · exact .inl .requestStop
  · exact .inl .same
  · exact .inl (.output _ fun _ => rfl)
  · exact .inr hreset

theorem State.withTrace_self (s : State) : s.withTrace s.trace = s := rfl

/-- A step takes the next input, if one is left, and makes one of the changes or resets. -/
theorem step_change {s t : State} (h : step s = .next t) :
    StateChange (s.withTrace s.trace.tail) t ∨
      ∃ rest, s.trace = .reset :: rest ∧ t = (s.withTrace rest).afterReset := by
  obtain ⟨htrace, hend⟩ | ⟨x, rest, htrace, hx⟩ := step_next h
  · have hsame : s.withTrace s.trace.tail = s := by
      rw [htrace, List.tail_nil, ← htrace, State.withTrace_self]
    rw [hsame]
    obtain ⟨-, rfl⟩ | ⟨-, rfl⟩ := hend
    · exact .inl .refuse
    · exact .inl .same
  · rw [htrace, List.tail_cons]
    obtain hc | ⟨rfl, rfl⟩ := runInput_change hx
    · exact .inl hc
    · exact .inr ⟨rest, rfl, rfl⟩

/-! ### The history of the queue -/

@[simp] theorem inFlight_append (l : List Event) (e : Event) : inFlight (l ++ [e]) = inFlightStep (inFlight l) e := by
  simp [inFlight]

/-! ### The invariant under each change

Each lemma proves again only the parts of the invariant that the change touches. -/

/-- A block with nothing stored and nothing set has the invariant, whatever its parameters. -/
theorem Inv.of_cleared {s : State} (hbuf : s.buf = []) (hphase : s.phase = .top) (hq : s.q = [])
    (hhist : inFlight s.log = []) (hb : s.fBufOvf = false) (hqo : s.fQOvf = false) (hmid : s.midRead = false) :
    Inv s where
  framesNonEmpty := by simp [hq]
  haltedEmpty _ := hbuf
  queueHistory := hhist.trans hq.symm
  bufferBound := by simp [hbuf]
  queueBound := by simp [hq]
  bufOvfBounded _ := hb
  qOvfBounded _ := hqo
  haltedStopped := by simp [hphase]
  midReadOutstanding := by simp [hmid]

theorem inv_resetWith (cfg : Config) (trace : List Input) : Inv (State.resetWith cfg trace) :=
  .of_cleared rfl rfl rfl rfl rfl rfl rfl

theorem inv_afterReset (s : State) : Inv s.afterReset :=
  .of_cleared rfl rfl rfl (by simp [inFlightStep]) rfl rfl rfl

section
variable {s : State}

theorem Inv.withTrace (h : Inv s) (trace : List Input) : Inv (s.withTrace trace) := { h with }

theorem Inv.markRefused (h : Inv s) : Inv s.markRefused := { h with }

theorem Inv.emit (h : Inv s) {e : Event} (neutral : ∀ pending, inFlightStep pending e = pending) : Inv (s.emit e) :=
  { h with queueHistory := by simp [neutral, h.queueHistory] }

theorem Inv.requestStop (h : Inv s) : Inv s.requestStop := { h with haltedStopped := fun _ => rfl }

theorem Inv.issueRead (h : Inv s) : Inv s.issueRead :=
  { h with
    haltedEmpty := by simp
    haltedStopped := by simp
    midReadOutstanding := fun _ => rfl }

theorem Inv.haltLoop (h : Inv s) (outside : s.midRead = false) (stopping : s.stopReq = true) : Inv s.haltLoop :=
  { h with
    haltedEmpty := fun _ => rfl
    bufferBound := by simp
    haltedStopped := fun _ => stopping
    midReadOutstanding := by simp [outside] }

theorem Inv.append (h : Inv s) {bs : ByteString} (more : Bool) (reading : s.phase = .inRead)
    (fits : s.bufferOverflows bs.length = false) : Inv (s.append bs more) :=
  have notHalted : (s.append bs more).phase ≠ .halted := by cases more <;> simp [reading]
  { h with
    haltedEmpty := fun hh => absurd hh notHalted
    bufferBound := by simpa using bufferOverflows_false.mp fits
    haltedStopped := fun hh => absurd hh notHalted
    midReadOutstanding := by simp +contextual [reading] }

theorem Inv.noteRead (h : Inv s) (more : Bool) (reading : s.phase = .inRead) : Inv (s.noteRead more) :=
  { h with midReadOutstanding := fun _ => reading }

theorem Inv.setFault_bufOvf (h : Inv s) {c : Nat} (bounded : s.cfg.frameCap = some c) : Inv (s.setFault .bufOvf) :=
  { h with bufOvfBounded := by simp [bounded] }

theorem Inv.setFault_qOvf (h : Inv s) {c : Nat} (bounded : s.cfg.queueCap = some c) : Inv (s.setFault .qOvf) :=
  { h with qOvfBounded := by simp [bounded] }

theorem Inv.endEmptyRead (h : Inv s) (outside : s.midRead = false) : Inv s.endEmptyRead :=
  { h with
    haltedEmpty := by simp
    haltedStopped := by simp
    midReadOutstanding := by simp [outside] }

/-- The push needs both halves of R94's check: a frame that is not empty, and room for it. -/
theorem Inv.pushFrame (h : Inv s) (outside : s.midRead = false) (nonEmpty : s.buf ≠ []) (room : s.queueFull = false) :
    Inv s.pushFrame :=
  { h with
    framesNonEmpty := by
      intro F hF
      obtain hF | rfl : F ∈ s.q ∨ F = s.buf := by simpa using hF
      · exact h.framesNonEmpty F hF
      · exact nonEmpty
    haltedEmpty := fun _ => rfl
    queueHistory := by simp [inFlightStep, h.queueHistory]
    bufferBound := by simp
    queueBound := by
      intro c hc
      have hle : s.q.length ≤ c := h.queueBound c hc
      have hne : c ≠ s.q.length := by
        rintro rfl
        exact queueFull_false.mp room hc
      simp only [State.pushFrame_q, List.length_append, List.length_singleton]
      omega
    haltedStopped := by simp
    midReadOutstanding := by simp [outside] }

theorem Inv.popFrame (h : Inv s) : Inv s.popFrame := by
  cases hq : s.q with
  | nil =>
    rw [State.popFrame_nil s hq]
    exact h.emit fun _ => rfl
  | cons F rest =>
    rw [State.popFrame_cons s F rest hq]
    exact { h with
      framesNonEmpty := fun G hG => h.framesNonEmpty G (hq ▸ List.mem_cons_of_mem F hG)
      queueHistory := by simp [inFlightStep, h.queueHistory, hq]
      queueBound := fun c hc => by
        have hle := h.queueBound c hc
        rw [hq, List.length_cons] at hle
        exact Nat.le_of_succ_le hle }

end

/-- Every change keeps the invariant. -/
theorem StateChange.keeps_inv {s t : State} (hc : StateChange s t) (h : Inv s) : Inv t := by
  cases hc with
  | same => exact h
  | refuse => exact h.markRefused
  | output e neutral => exact h.emit neutral
  | requestStop => exact h.requestStop
  | pop => exact h.popFrame
  | issueRead => exact h.issueRead
  | halt outside _ stopping => exact h.haltLoop outside stopping
  | append bs more reading fits => exact h.append more reading fits
  | overflowBuffer n more reading tooLong =>
    obtain ⟨c, bounded, -⟩ := bufferOverflows_true.mp tooLong
    exact (h.noteRead more reading).setFault_bufOvf bounded
  | endEmptyRead outside => exact h.endEmptyRead outside
  | push outside _ nonEmpty room => exact h.pushFrame outside nonEmpty room
  | overflowQueue _ _ full => exact h.setFault_qOvf (queueFull_true.mp full)

/-- Settles O59: a step is one change or a reset, and each of them keeps the invariant. -/
theorem everyStepKeepsInv : Obligations.EveryStepKeepsInv := by
  intro s t hinv hstep
  obtain hc | ⟨rest, -, rfl⟩ := step_change hstep
  · exact hc.keeps_inv (hinv.withTrace _)
  · exact inv_afterReset _

/-- Settles O60. -/
theorem resetHasInv : Obligations.ResetHasInv := inv_resetWith _ _

/-! ### The sticky bits -/

/-- What is set of the stop flag, the fault bits and the refusal mark in `s` is set in `t`. -/
structure KeepsSticky (s t : State) : Prop where
  stopReq : s.stopReq = true → t.stopReq = true
  fBufOvf : s.fBufOvf = true → t.fBufOvf = true
  fQOvf : s.fQOvf = true → t.fQOvf = true
  refused : s.refused = true → t.refused = true

/-- Every change sets one of the sticky bits or leaves all four as they are. -/
theorem StateChange.keepsSticky {s t : State} (hc : StateChange s t) : KeepsSticky s t := by
  cases hc <;> constructor <;> simp

/-- Settles O21: of what a step can do, only a reset clears a sticky bit. -/
theorem stickyBitsStayUntilReset : Obligations.StickyBitsStayUntilReset := by
  intro s t hstep hnoReset
  obtain hc | ⟨rest, hreset, -⟩ := step_change hstep
  · obtain ⟨hstop, hbuf, hq, href⟩ := hc.keepsSticky
    exact ⟨hstop, hbuf, hq, href⟩
  · exact absurd hreset (hnoReset rest)

/-! ### The CONSUMER's operations -/

/-- An operation of the CONSUMER, or of no agent, only marks a refusal, hands something out, or pops. -/
theorem exec_consumer_next {i : Instr} {s t : State} (hi : agentOf i = some .consumer ∨ agentOf i = none)
    (h : exec i s = .next t) : t = s.markRefused ∨ (∃ e, t = s.emit e) ∨ (i = .pop ∧ t = s.popFrame) := by
  obtain rfl | ⟨_, _, -, rfl⟩ | ⟨-, hop⟩ := exec_next h
  · exact .inl rfl
  · exact .inr (.inl ⟨_, rfl⟩)
  · obtain ⟨_, _, rfl, -⟩ | ⟨_, rfl, -⟩ | ⟨rfl, -⟩ | ⟨rfl, -⟩ | hpop | ⟨rfl, -⟩ | ⟨rfl, -⟩ | ⟨_, -, rfl⟩ | ⟨_, -, rfl⟩ |
      ⟨_, _, -, rfl⟩ := hop
    · simp [agentOf] at hi
    · simp [agentOf] at hi
    · simp [agentOf] at hi
    · simp [agentOf] at hi
    · exact .inr (.inr hpop)
    · simp [agentOf] at hi
    · simp [agentOf] at hi
    · exact .inr (.inl ⟨_, rfl⟩)
    · exact .inr (.inl ⟨_, rfl⟩)
    · exact .inr (.inl ⟨_, rfl⟩)

/-- Settles O52: the three things such an operation can do touch neither the assembler nor the faults. -/
theorem consumerLeavesTheAssemblerAlone : Obligations.ConsumerLeavesTheAssemblerAlone := by
  intro s t i hi hexec
  have hagent : agentOf i = some .consumer ∨ agentOf i = none := by
    obtain rfl | ⟨_, rfl⟩ | ⟨_, rfl⟩ | ⟨_, rfl⟩ | ⟨_, _, rfl⟩ | ⟨_, rfl⟩ | ⟨_, rfl⟩ | ⟨_, rfl⟩ | ⟨_, rfl⟩ | ⟨_, rfl⟩ := hi
      <;> simp [agentOf]
  obtain rfl | ⟨e, rfl⟩ | ⟨rfl, rfl⟩ := exec_consumer_next hagent hexec
  · simp
  · simp
  · simp

/-! ### Validated readings -/

@[simp] theorem readingOf_reportKind (f : ReportFormat) (r : Reading) : readingOf (reportKind f r) = some r := by
  cases f <;> rfl

@[simp] theorem readingOf_ackResult (cfg : Config) (F : ByteString) : readingOf (ackResult cfg F) = none := by
  unfold ackResult
  split <;> rfl

/-- A report's result: too short, validated, or with a check that fails (R106, R109, R110). -/
theorem reportResult_cases (cfg : Config) (f : ReportFormat) (F : ByteString) :
    (F.length < (cfg.fmt.layout f).minLen ∧ reportResult cfg f F = .unrecognizedFrame) ∨
      ((cfg.fmt.layout f).minLen ≤ F.length ∧ (extract (cfg.fmt.layout f) F).validChecksum = true ∧
        (extract (cfg.fmt.layout f) F).validStopByte = true ∧
        reportResult cfg f F = reportKind f (extract (cfg.fmt.layout f) F)) ∨
      ((cfg.fmt.layout f).minLen ≤ F.length ∧
        ∃ vc vs, (vc && vs) = false ∧ reportResult cfg f F = .validationFailed f vc vs) := by
  by_cases hlen : F.length < (cfg.fmt.layout f).minLen
  · exact .inl ⟨hlen, by simp [reportResult, hlen]⟩
  · have hle : (cfg.fmt.layout f).minLen ≤ F.length := Nat.le_of_not_lt hlen
    cases hv : (extract (cfg.fmt.layout f) F).validChecksum && (extract (cfg.fmt.layout f) F).validStopByte with
    | true =>
      obtain ⟨hc, hs⟩ := Bool.and_eq_true_iff.mp hv
      exact .inr (.inl ⟨hle, hc, hs, by simp [reportResult, hlen, hv]⟩)
    | false => exact .inr (.inr ⟨hle, _, _, hv, by simp [reportResult, hlen, hv]⟩)

/-- A frame whose result carries a reading is of a report format. -/
theorem classify_of_readingOf_decodeFrame {cfg : Config} {F : ByteString} {r : Reading}
    (h : readingOf (decodeFrame cfg F) = some r) :
    ∃ f, classify cfg.fmt F = some (.report f) ∧ decodeFrame cfg F = reportResult cfg f F := by
  unfold decodeFrame at h ⊢
  cases hc : classify cfg.fmt F with
  | none => simp [hc, readingOf] at h
  | some fmt =>
    cases fmt with
    | ack => simp [hc] at h
    | report f => exact ⟨f, rfl, rfl⟩

/-- Settles O39: of the results of a report format, only the validated one carries a reading. -/
theorem onlyValidatedReadingsAreReturned : Obligations.OnlyValidatedReadingsAreReturned := by
  intro cfg F r hr
  obtain ⟨f, hclass, hdec⟩ := classify_of_readingOf_decodeFrame hr
  rw [hdec] at hr ⊢
  obtain ⟨-, hres⟩ | ⟨hlen, hchk, hstop, hres⟩ | ⟨-, vc, vs, -, hres⟩ := reportResult_cases cfg f F
  · simp [hres, readingOf] at hr
  · rw [hres, readingOf_reportKind] at hr
    cases hr
    exact ⟨hchk, hstop, f, hclass, hres, hlen, rfl⟩
  · simp [hres, readingOf] at hr

/-! ### STATUS and CTRL -/

/-- The status word, one bit after another from bit 7 down to bit 0. -/
theorem statusWord_eq_concat (s : State) :
    statusWord s =
      .concat (.concat (.concat (.concat (.concat (.concat (.concat (BitVec.ofBool false) s.refused) s.fQOvf) s.fBufOvf)
        (decide (s.q ≠ []))) s.stopReq) (decide (s.phase = .inRead))) (decide (s.phase = .halted)) := rfl

/-- The eight bits of the status word (R31). -/
theorem statusWord_bits (s : State) :
    (statusWord s).getLsbD 0 = decide (s.phase = .halted) ∧ (statusWord s).getLsbD 1 = decide (s.phase = .inRead) ∧
      (statusWord s).getLsbD 2 = s.stopReq ∧ (statusWord s).getLsbD 3 = decide (s.q ≠ []) ∧
      (statusWord s).getLsbD 4 = s.fBufOvf ∧ (statusWord s).getLsbD 5 = s.fQOvf ∧
      (statusWord s).getLsbD 6 = s.refused ∧ (statusWord s).getLsbD 7 = false := by
  simp [statusWord_eq_concat, BitVec.getLsbD_concat, -BitVec.getLsbD_eq_getElem]

theorem step_sampleStatus {s : State} {rest : List Input} (h : s.trace = .sampleStatus :: rest) :
    step s = .next ((s.withTrace rest).emit (.status (statusWord s))) := step_cons h

/-- Settles O47: the byte sampled is the status word, read bit by bit. -/
theorem statusWordShowsTheState : Obligations.StatusWordShowsTheState := by
  refine ⟨by decide, fun s rest htrace => ⟨statusWord s, step_sampleStatus htrace, ?_⟩⟩
  obtain ⟨h0, h1, h2, h3, h4, h5, h6, h7⟩ := statusWord_bits s
  rw [h0, h1, h3, decide_eq_true_iff, decide_eq_true_iff, decide_eq_true_iff]
  exact ⟨.rfl, .rfl, h2, .rfl, h4, h5, h6, h7⟩

theorem step_writeCtrl {s : State} {v : Byte} {rest : List Input} (h : s.trace = .writeCtrl v :: rest) :
    step s =
      if ctrlStop v then whenEnabled (s.withTrace rest) true fun s => .next s.requestStop
      else .next (s.withTrace rest) := step_cons h

/-- Settles O48: with bit 0 set the write goes through STOP's gate, with bit 0 clear it does nothing. -/
theorem ctrlWriteLooksAtBitZero : Obligations.CtrlWriteLooksAtBitZero := by
  intro s v rest htrace
  rw [step_writeCtrl htrace]
  refine ⟨fun hset hok => ?_, fun hset hfault => ?_, fun hclear => ?_⟩
  · rw [if_pos (show ctrlStop v = true from hset), whenEnabled_true _ (by simpa using hok) rfl]
    rfl
  · rw [if_pos (show ctrlStop v = true from hset), whenEnabled_faulted _ _ (by simpa using hfault)]
  · rw [if_neg (Bool.eq_false_iff.mp (show ctrlStop v = false from hclear))]
    rfl

/-! ### Reset, refused words, decoded operations -/

theorem exec_refusedWord (s : State) (w : TraceWord) : exec (.refusedWord w) s = .next s.markRefused := rfl

/-- Settles O20. -/
theorem refusedWordOnlyMarks : Obligations.RefusedWordOnlyMarks := exec_refusedWord

/-- Settles O50. -/
theorem resetValuesAreTheSpecs : Obligations.ResetValuesAreTheSpecs :=
  ⟨rfl, rfl, rfl, rfl, rfl, rfl, rfl, by decide⟩

/-- Settles O51: in the reset state the gate of ASM_ISSUE is open, that of ASM_HALT is shut, and `q` is empty. -/
theorem firstStepsAfterReset : Obligations.FirstStepsAfterReset := ⟨rfl, rfl, rfl⟩

theorem runCode_of_decode {c : Code} {s : State} {i : Instr} (h : decode s.cfg c = .ok i) :
    runCode c s = exec i s := by
  simp [runCode, h]

/-- Settles O58: taking the input leaves the parameters the code is decoded under. -/
theorem stepRunsTheDecodedOperation : Obligations.StepRunsTheDecodedOperation := by
  intro s c rest i htrace hdec
  calc step s = runCode c (s.withTrace rest) := step_cons htrace
    _ = exec i (s.withTrace rest) := runCode_of_decode (by simpa using hdec)

end Sys2Proof.Machine

/-!
PROOFS. The family 20_memory: the parameters and the schedule, and who changes the queue: the assembler's side adds at
its tail, POP takes from its head.
-/

namespace Sys2Proof.Machine

/-! ### The parameters and the schedule -/

/-- No change writes the parameters or the inputs still to come. -/
theorem StateChange.cfg_trace {s t : State} (hc : StateChange s t) : t.cfg = s.cfg ∧ t.trace = s.trace := by
  cases hc <;> simp

/-- Settles O22: a step takes the next input and then makes one change or resets, and neither writes a parameter. -/
theorem parametersAreConstant : Obligations.ParametersAreConstant := by
  intro s t hstep
  obtain hc | ⟨rest, htrace, rfl⟩ := step_change hstep
  · exact hc.cfg_trace
  · simp [htrace]

/-! ### The assembler's side of the queue -/

/-- Bytes that arrive, fitting or not, change neither the queue nor the log (R92, R93, R129). -/
theorem receive_keeps_queue {bs : ByteString} {more : Bool} {s t : State} (h : receive bs more s = .next t) :
    t.q = s.q ∧ t.log = s.log := by
  obtain ⟨-, rfl⟩ | ⟨-, rfl⟩ := receive_next h
  · simp
  · simp

/-- The end of a read leaves the queue alone or adds the whole non-empty buffer at its tail (R94). -/
theorem endRead_adds_at_tail {s t : State} (h : endRead s = .next t) :
    (t.q = s.q ∧ t.log = s.log) ∨
      (s.buf ≠ [] ∧ t.q = s.q ++ [s.buf] ∧ t.log = s.log ++ [.pushed s.buf] ∧ t.buf = []) := by
  obtain ⟨-, rfl⟩ | ⟨-, -, rfl⟩ | ⟨nonEmpty, -, rfl⟩ := endRead_next h
  · exact .inl ⟨rfl, rfl⟩
  · exact .inl ⟨rfl, rfl⟩
  · exact .inr ⟨nonEmpty, rfl, rfl, rfl⟩

/-- An operation of the FA, the CHANNEL or CONTROL leaves the queue alone or is an RX_TIMEOUT that pushes. -/
theorem exec_producer_adds_at_tail {i : Instr} {s t : State} (hconsumer : agentOf i ≠ some .consumer)
    (hagent : agentOf i ≠ none) (h : exec i s = .next t) :
    (t.q = s.q ∧ t.log = s.log) ∨
      (i = .rxTimeout ∧ s.buf ≠ [] ∧ t.q = s.q ++ [s.buf] ∧ t.log = s.log ++ [.pushed s.buf] ∧ t.buf = []) := by
  obtain rfl | ⟨hi, lo, rfl, -⟩ | ⟨-, hop⟩ := exec_next h
  · exact .inl ⟨rfl, rfl⟩
  · exact absurd rfl hagent
  · obtain ⟨more, d, -, -, hr⟩ | ⟨bs, -, -, -, hr⟩ | ⟨rfl, -, -, he⟩ | ⟨-, rfl⟩ | ⟨rfl, -⟩ | ⟨-, -, -, -, rfl⟩ |
      ⟨-, -, -, -, rfl⟩ | ⟨bs, rfl, -⟩ | ⟨F, rfl, -⟩ | ⟨F, d, hrow, -⟩ := hop
    · exact .inl (receive_keeps_queue hr)
    · exact .inl (receive_keeps_queue hr)
    · exact (endRead_adds_at_tail he).imp_right fun hpush => ⟨rfl, hpush⟩
    · exact .inl ⟨rfl, rfl⟩
    · exact absurd rfl hconsumer
    · exact .inl ⟨rfl, rfl⟩
    · exact .inl ⟨rfl, rfl⟩
    · exact absurd rfl hconsumer
    · exact absurd rfl hconsumer
    · obtain rfl | rfl | rfl | rfl | rfl := hrow <;> exact absurd rfl hconsumer

/-- Settles O53: the operations it lists are those of the FA, the CHANNEL and CONTROL. -/
theorem assemblerOnlyAddsAtTheTail : Obligations.AssemblerOnlyAddsAtTheTail := by
  intro s t i hi hexec
  have hagent : agentOf i ≠ some .consumer ∧ agentOf i ≠ none := by
    obtain rfl | rfl | rfl | rfl | ⟨_, rfl⟩ | ⟨_, _, rfl⟩ := hi <;> simp [agentOf]
  exact exec_producer_adds_at_tail hagent.1 hagent.2 hexec

/-! ### POP and the drained queue -/

/-- Outside a read and with no fault bit set, POP's gate is open (R96). -/
theorem exec_pop_of_ready {s : State} (hs : Ready s) : exec .pop s = .next s.popFrame :=
  calc exec .pop s = whenEnabled s true fun s => .next s.popFrame := atWord_outside _ _ hs.1
    _ = .next s.popFrame := whenEnabled_true _ hs.2 rfl

/-- A POP word on a queue that is not empty takes the head and returns it. -/
theorem step_pop_cons {s : State} {F : ByteString} {frames : List ByteString} {rest : List Input} (hs : Ready s)
    (hq : s.q = F :: frames) (htrace : s.trace = wordInput 0x600 :: rest) :
    step s = .next { s with q := frames, trace := rest, log := s.log ++ [.popped (some F)] } := by
  have hpop : decodeWord 0x600 [] = .pop := by decide
  calc step s = exec .pop (s.withTrace rest) := step_word htrace hpop
    _ = .next (s.withTrace rest).popFrame := exec_pop_of_ready hs
    _ = _ := congrArg Host.Outcome.next (State.popFrame_cons (s.withTrace rest) F frames hq)

/-- As many POP words as the queue has frames return them in order, by induction on the queue: each word takes the head
and leaves a `Ready` state whose queue is the tail (R48). -/
theorem run_pops {frames : List ByteString} {s : State} {rest : List Input} (hs : Ready s) (hq : s.q = frames)
    (htrace : s.trace = List.replicate frames.length (wordInput 0x600) ++ rest) :
    run frames.length s =
      .next { s with q := [], trace := rest, log := s.log ++ frames.map (fun F => .popped (some F)) } := by
  induction frames generalizing s with
  | nil =>
    obtain rfl : s.trace = rest := htrace
    rw [List.length_nil, run_zero, List.map_nil, List.append_nil, ← hq]
  | cons F frames ih =>
    rw [List.length_cons, List.replicate_succ, List.cons_append] at htrace
    rw [List.length_cons, run_succ _ (step_pop_cons hs hq htrace), ih]
    · simp
    · exact hs
    · rfl
    · rfl

/-- Settles O8. -/
theorem drainReturnsTheQueueInOrder : Obligations.DrainReturnsTheQueueInOrder :=
  fun _ _ hs htrace => run_pops hs rfl htrace

end Sys2Proof.Machine

/-!
PROOFS. The family 30_encoding, the codes: the trace words (R73 to R75), the reads (R74), the frames (R70) and the
command frames (R58), each decoded and encoded back.
-/

namespace Sys2Proof.Machine

/-! ### The fields of a trace word -/

theorem opField_eq_zero_iff {w : TraceWord} : opField w = 0 ↔ w.extractLsb' 9 3 = 0 :=
  (BitVec.toNat_eq (y := 0)).symm

theorem shiftRight_nine_eq_zero_iff {w : TraceWord} : w >>> 9 = 0 ↔ w.extractLsb' 9 3 = 0 := by
  have := w.isLt
  simp only [BitVec.ofNat_eq_ofNat, BitVec.toNat_eq, BitVec.toNat_ushiftRight, BitVec.extractLsb'_toNat,
    BitVec.toNat_ofNat, Nat.shiftRight_eq_div_pow]
  omega

/-- The nine low bits are `M` and `D`. -/
theorem low_eq_zero_iff {w : TraceWord} : w.extractLsb' 0 9 = 0 ↔ moreField w = false ∧ dataField w = 0 := by
  simp only [moreField, dataField, BitVec.ofNat_eq_ofNat, BitVec.toNat_eq, BitVec.getLsbD, BitVec.extractLsb'_toNat,
    BitVec.toNat_ofNat, Nat.shiftRight_zero, Nat.testBit_eq_decide_div_mod_eq, decide_eq_false_iff_not]
  omega

theorem and_mask_eq_zero_iff {w : TraceWord} : w &&& 0x1FF = 0 ↔ w.extractLsb' 0 9 = 0 := by
  have hmask : w.toNat &&& 0x1FF = w.toNat % 2 ^ 9 := Nat.and_two_pow_sub_one_eq_mod _ 9
  simp [BitVec.toNat_eq, hmask]

theorem wellFormed_refusedWord_iff {cfg : Config} {w : TraceWord} :
    (Instr.refusedWord w).wellFormed cfg = true ↔ w.extractLsb' 9 3 ≠ 0 ∧ w.extractLsb' 0 9 ≠ 0 := by
  rw [Instr.wellFormed, Bool.and_eq_true, decide_eq_true_iff, decide_eq_true_iff, Ne, Ne,
    shiftRight_nine_eq_zero_iff, and_mask_eq_zero_iff]

/-! ### What a trace word decodes to -/

/-- The words of R74 and the operations they are, with the words R75(a) refuses. -/
inductive WordDecodes (operand : ByteString) : TraceWord → Instr → Prop where
  | rxByte (more : Bool) (d : Byte) : WordDecodes operand (mkWord 0 more d) (.rxByte more d)
  | refused {w : TraceWord} (hop : w.extractLsb' 9 3 ≠ 0) (hlow : w.extractLsb' 0 9 ≠ 0) :
      WordDecodes operand w (.refusedWord w)
  | rxTimeout : WordDecodes operand (mkWord 1 false 0) .rxTimeout
  | stop : WordDecodes operand (mkWord 2 false 0) .stop
  | pop : WordDecodes operand (mkWord 3 false 0) .pop
  | decode : WordDecodes operand (mkWord 4 false 0) (.decode operand)
  | checksum : WordDecodes operand (mkWord 5 false 0) (.checksum operand)
  | asmIssue : WordDecodes operand (mkWord 6 false 0) .asmIssue
  | asmHalt : WordDecodes operand (mkWord 7 false 0) .asmHalt

theorem decodeWord_refused {w : TraceWord} (operand : ByteString) (hop : w.extractLsb' 9 3 ≠ 0)
    (hlow : w.extractLsb' 0 9 ≠ 0) : decodeWord w operand = .refusedWord w := by
  have hop' : opField w ≠ 0 := mt opField_eq_zero_iff.mp hop
  have hlow' : moreField w = false → dataField w ≠ 0 := fun hm hd => hlow (low_eq_zero_iff.mpr ⟨hm, hd⟩)
  cases hm : moreField w <;> simp_all [decodeWord]

/-- A word with neither `M` nor `D` is its opcode alone. -/
theorem eq_mkWord_of_low_eq_zero {w : TraceWord} (hlow : w.extractLsb' 0 9 = 0) :
    w = mkWord (w.extractLsb' 9 3) false 0 := by
  obtain ⟨hmore, hdata⟩ := low_eq_zero_iff.mp hlow
  rw [← hmore, ← hdata, mkWord_fields]

theorem opcode_cases : ∀ op : BitVec 3, op = 0 ∨ op = 1 ∨ op = 2 ∨ op = 3 ∨ op = 4 ∨ op = 5 ∨ op = 6 ∨ op = 7 := by
  decide

theorem decodeWord_of_wordDecodes {w : TraceWord} {operand : ByteString} {i : Instr}
    (h : WordDecodes operand w i) : decodeWord w operand = i := by
  cases h with
  | rxByte more d => exact decodeWord_rxByte more d operand
  | refused hop hlow => exact decodeWord_refused operand hop hlow
  | _ => simp [decodeWord]

/-- Every word is one of R74 or refused by R75(a). -/
theorem exists_wordDecodes (w : TraceWord) (operand : ByteString) : ∃ i, WordDecodes operand w i := by
  by_cases hop : w.extractLsb' 9 3 = 0
  · rw [← mkWord_fields w, hop]
    exact ⟨_, .rxByte _ _⟩
  · by_cases hlow : w.extractLsb' 0 9 = 0
    · rw [eq_mkWord_of_low_eq_zero hlow]
      obtain h | h | h | h | h | h | h | h := opcode_cases (w.extractLsb' 9 3) <;> rw [h]
      · exact absurd h hop
      · exact ⟨_, .rxTimeout⟩
      · exact ⟨_, .stop⟩
      · exact ⟨_, .pop⟩
      · exact ⟨_, .decode⟩
      · exact ⟨_, .checksum⟩
      · exact ⟨_, .asmIssue⟩
      · exact ⟨_, .asmHalt⟩
    · exact ⟨_, .refused hop hlow⟩

theorem decodeWord_eq_iff {w : TraceWord} {operand : ByteString} {i : Instr} :
    decodeWord w operand = i ↔ WordDecodes operand w i := by
  refine ⟨?_, decodeWord_of_wordDecodes⟩
  rintro rfl
  obtain ⟨i, hi⟩ := exists_wordDecodes w operand
  rwa [decodeWord_of_wordDecodes hi]

theorem decode_word_eq_iff {cfg : Config} {w : TraceWord} {operand : ByteString} {i : Instr} :
    decode cfg (.word w operand) = .ok i ↔ WordDecodes operand w i := by
  rw [← decodeWord_eq_iff, decode, Except.ok.injEq]

/-! ### The words of one read -/

theorem readWords_ne_nil {bs : ByteString} (h : bs ≠ []) : readWords bs ≠ [] := by
  cases bs using readWords.fun_cases <;> simp_all [readWords]

theorem readBytes_cons_more (b : Byte) {ws : List TraceWord} (h : ws ≠ []) :
    readBytes (mkWord 0 true b :: ws) = (readBytes ws).map (b :: ·) := by
  obtain ⟨w, ws, rfl⟩ := List.exists_cons_of_ne_nil h
  simp [readBytes]

theorem readBytes_readWords {bs : ByteString} (h : bs ≠ []) : readBytes (readWords bs) = some bs := by
  induction bs using readWords.induct with
  | case1 => contradiction
  | case2 b => simp [readWords, readBytes]
  | case3 b b' bs ih =>
    have hne : b' :: bs ≠ [] := List.cons_ne_nil _ _
    rw [readWords, readBytes_cons_more b (readWords_ne_nil hne), ih hne, Option.map_some]

theorem ne_nil_of_readBytes {ws : List TraceWord} {bs : ByteString} (h : readBytes ws = some bs) : bs ≠ [] := by
  rintro rfl
  cases ws using readBytes.fun_cases <;> simp_all [readBytes]

/-! ### The rows of the classification map -/

/-- First match wins, written out over the four prefixes (R104). -/
theorem classify_eq (t : FormatTable) (F : ByteString) :
    classify t F =
      if hasLead t.activeReport.lead F then some (.report .activeReport)
      else if hasLead t.ackLead F then some .ack
      else if hasLead t.passiveReportWithId.lead F then some (.report .passiveReportWithId)
      else if hasLead t.passiveReportNoId.lead F then some (.report .passiveReportNoId)
      else none := by
  simp only [classify, classificationOrder, matchesLead_eq_hasLead, FormatTable.leadOf, FormatTable.layout,
    List.find?_cons, List.find?_nil]
  split_ifs with hactive hack hwith hno <;> simp [*]

/-- The row of a report format, with the length condition of the row (R106). -/
theorem decodeFrameRow_of_report {cfg : Config} {F : ByteString} {r : ReportFormat}
    (h : classify cfg.fmt F = some (.report r)) :
    decodeFrameRow cfg F =
      if (cfg.fmt.layout r).minLen ≤ F.length then frameOfReport r F else .frameUnrecognised F := by
  simp only [decodeFrameRow, h, ← Nat.not_lt, ite_not]

/-- The decoder's row, by the conditions of the rows (R70). -/
theorem decodeFrameRow_eq (cfg : Config) (F : ByteString) :
    decodeFrameRow cfg F =
      if isActiveReport cfg F then .frameActiveReport F
      else if isAck cfg F then .frameAck F
      else if isPassiveReportWithId cfg F then .framePassiveReportWithId F
      else if isPassiveReportNoId cfg F then .framePassiveReportNoId F
      else .frameUnrecognised F := by
  have hclass := classify_eq cfg.fmt F
  unfold isActiveReport isAck isPassiveReportWithId isPassiveReportNoId
  by_cases hactive : hasLead cfg.fmt.activeReport.lead F = true
  · rw [if_pos hactive] at hclass
    rw [decodeFrameRow_of_report hclass]
    by_cases hlen : cfg.fmt.activeReport.minLen ≤ F.length <;>
      simp [hactive, hlen, FormatTable.layout, frameOfReport]
  rw [if_neg hactive] at hclass
  by_cases hack : hasLead cfg.fmt.ackLead F = true
  · rw [if_pos hack] at hclass
    cases hexact : cfg.ackExact <;> by_cases hone : F.length = 1 <;>
      simp [decodeFrameRow, hclass, hactive, hack, hexact, hone]
  rw [if_neg hack] at hclass
  by_cases hwith : hasLead cfg.fmt.passiveReportWithId.lead F = true
  · rw [if_pos hwith] at hclass
    rw [decodeFrameRow_of_report hclass]
    by_cases hlen : cfg.fmt.passiveReportWithId.minLen ≤ F.length <;>
      simp [hactive, hack, hwith, hlen, FormatTable.layout, frameOfReport]
  rw [if_neg hwith] at hclass
  by_cases hno : hasLead cfg.fmt.passiveReportNoId.lead F = true
  · rw [if_pos hno] at hclass
    rw [decodeFrameRow_of_report hclass]
    by_cases hlen : cfg.fmt.passiveReportNoId.minLen ≤ F.length <;>
      simp [hactive, hack, hwith, hno, hlen, FormatTable.layout, frameOfReport]
  · rw [if_neg hno] at hclass
    simp [decodeFrameRow, hclass, hactive, hack, hwith, hno]

/-! A later row takes no frame of an earlier one. -/

theorem isAck_excludes {cfg : Config} {F : ByteString} (h : isAck cfg F = true) : isActiveReport cfg F = false := by
  simp_all [isActiveReport, isAck]

theorem isPassiveReportWithId_excludes {cfg : Config} {F : ByteString} (h : isPassiveReportWithId cfg F = true) :
    isActiveReport cfg F = false ∧ isAck cfg F = false := by
  simp_all [isActiveReport, isAck, isPassiveReportWithId]

theorem isPassiveReportNoId_excludes {cfg : Config} {F : ByteString} (h : isPassiveReportNoId cfg F = true) :
    isActiveReport cfg F = false ∧ isAck cfg F = false ∧ isPassiveReportWithId cfg F = false := by
  simp_all [isActiveReport, isAck, isPassiveReportWithId, isPassiveReportNoId]

/-- The decoder gives a frame the one row whose condition it meets. -/
theorem decodeFrameRow_eq_iff {cfg : Config} {F : ByteString} {i : Instr} :
    decodeFrameRow cfg F = i ↔ encode i = .frame F ∧ i.wellFormed cfg = true := by
  constructor
  · rintro rfl
    rw [decodeFrameRow_eq]
    split_ifs <;> simp_all [encode, Instr.wellFormed]
  · rintro ⟨hcode, hrow⟩
    rw [decodeFrameRow_eq]
    cases i with
    | frameActiveReport G =>
      cases hcode
      exact if_pos hrow
    | frameAck G =>
      cases hcode
      simp [isAck_excludes hrow, show isAck cfg F = true from hrow]
    | framePassiveReportWithId G =>
      cases hcode
      simp [isPassiveReportWithId_excludes hrow, show isPassiveReportWithId cfg F = true from hrow]
    | framePassiveReportNoId G =>
      cases hcode
      simp [isPassiveReportNoId_excludes hrow, show isPassiveReportNoId cfg F = true from hrow]
    | frameUnrecognised G =>
      cases hcode
      simp only [Instr.wellFormed, Bool.and_eq_true, Bool.not_eq_true'] at hrow
      simp [hrow]
    | _ => cases hcode

theorem decode_frame_eq_iff {cfg : Config} {F : ByteString} {i : Instr} :
    decode cfg (.frame F) = .ok i ↔ encode i = .frame F ∧ i.wellFormed cfg = true := by
  rw [← decodeFrameRow_eq_iff, decode, Except.ok.injEq]

/-! ### Command frames -/

theorem decodeCommand_commandFrame (hi lo : Byte) : decodeCommand (commandFrame hi lo) = some (.cmd hi lo) := by
  simp [commandFrame, decodeCommand]

theorem exists_cmd_of_decodeCommand {bs : ByteString} {i : Instr} (h : decodeCommand bs = some i) :
    ∃ hi lo, i = .cmd hi lo := by
  unfold decodeCommand at h
  split at h
  · split at h
    · exact ⟨_, _, (Option.some.inj h).symm⟩
    · contradiction
  · contradiction

/-! ### The encoding and the decoder -/

/-- Settles O54, by the form of the code: a word by the table of R74, a read by its words, a frame by the one row whose
condition it meets. -/
theorem decodeInvertsEncode : Obligations.DecodeInvertsEncode := by
  intro cfg i hwf
  cases i with
  | rxByte more d => exact decode_word_eq_iff.mpr (.rxByte more d)
  | rxChunk bs =>
    have hne : bs ≠ [] := by simpa [Instr.wellFormed] using hwf
    simp [encode, decode, readBytes_readWords hne]
  | rxTimeout => exact decode_word_eq_iff.mpr .rxTimeout
  | stop => exact decode_word_eq_iff.mpr .stop
  | pop => exact decode_word_eq_iff.mpr .pop
  | decode F => exact decode_word_eq_iff.mpr .decode
  | checksum bs => exact decode_word_eq_iff.mpr .checksum
  | asmIssue => exact decode_word_eq_iff.mpr .asmIssue
  | asmHalt => exact decode_word_eq_iff.mpr .asmHalt
  | refusedWord w =>
    obtain ⟨hop, hlow⟩ := wellFormed_refusedWord_iff.mp hwf
    exact decode_word_eq_iff.mpr (.refused hop hlow)
  | frameActiveReport F => exact decode_frame_eq_iff.mpr ⟨rfl, hwf⟩
  | frameAck F => exact decode_frame_eq_iff.mpr ⟨rfl, hwf⟩
  | framePassiveReportWithId F => exact decode_frame_eq_iff.mpr ⟨rfl, hwf⟩
  | framePassiveReportNoId F => exact decode_frame_eq_iff.mpr ⟨rfl, hwf⟩
  | frameUnrecognised F => exact decode_frame_eq_iff.mpr ⟨rfl, hwf⟩
  | cmd hi lo => simp [encode, decode, decodeCommand_commandFrame]

theorem WordDecodes.wellFormed {cfg : Config} {operand : ByteString} {w : TraceWord} {i : Instr}
    (h : WordDecodes operand w i) : i.wellFormed cfg = true := by
  cases h with
  | refused hop hlow => exact wellFormed_refusedWord_iff.mpr ⟨hop, hlow⟩
  | _ => rfl

/-- Settles O55, by the form of the code. -/
theorem decoderGivesWellFormedOperations : Obligations.DecoderGivesWellFormedOperations := by
  intro cfg c i hdec
  cases c with
  | word w operand => exact (decode_word_eq_iff.mp hdec).wellFormed
  | read ws =>
    cases hread : readBytes ws with
    | none => simp [decode, hread] at hdec
    | some bs =>
      obtain rfl : .rxChunk bs = i := by simpa [decode, hread] using hdec
      simpa [Instr.wellFormed] using ne_nil_of_readBytes hread
  | frame F => exact (decode_frame_eq_iff.mp hdec).2
  | command bs =>
    cases hcmd : decodeCommand bs with
    | none => simp [decode, hcmd] at hdec
    | some j =>
      obtain rfl : j = i := by simpa [decode, hcmd] using hdec
      obtain ⟨hi, lo, rfl⟩ := exists_cmd_of_decodeCommand hcmd
      rfl

/-- Only DECODE and CHECKSUM keep the operand beside their word (R76). -/
theorem WordDecodes.operand {operand : ByteString} {w : TraceWord} {i : Instr} (h : WordDecodes operand w i) :
    (encode i = .word w operand ∧ (i = .decode operand ∨ i = .checksum operand)) ∨
      (encode i = .word w [] ∧ WordDecodes [] w i) := by
  cases h with
  | rxByte more d => exact .inr ⟨rfl, .rxByte more d⟩
  | refused hop hlow => exact .inr ⟨rfl, .refused hop hlow⟩
  | rxTimeout => exact .inr ⟨rfl, .rxTimeout⟩
  | stop => exact .inr ⟨rfl, .stop⟩
  | pop => exact .inr ⟨rfl, .pop⟩
  | decode => exact .inl ⟨rfl, .inl rfl⟩
  | checksum => exact .inl ⟨rfl, .inr rfl⟩
  | asmIssue => exact .inr ⟨rfl, .asmIssue⟩
  | asmHalt => exact .inr ⟨rfl, .asmHalt⟩

/-- Settles O56. -/
theorem encodeInvertsDecodeOfWords : Obligations.EncodeInvertsDecodeOfWords := by
  intro cfg w operand i hdec
  obtain ⟨hcode, huses⟩ | ⟨hcode, hbare⟩ := (decode_word_eq_iff.mp hdec).operand
  · exact ⟨⟨operand, hcode, .inl rfl⟩, or_assoc.mp (.inl huses)⟩
  · exact ⟨⟨[], hcode, .inr rfl⟩, .inr (.inr (decode_word_eq_iff.mpr hbare))⟩

/-- Settles O57: each code is written out, so the decoder runs on it. -/
theorem writtenOutCodesDecode : Obligations.WrittenOutCodesDecode :=
  ⟨rfl, rfl, rfl, rfl, rfl, rfl, rfl, rfl, rfl, rfl⟩

/-- Settles O41. -/
theorem resultCodesAreTheSpecs : Obligations.ResultCodesAreTheSpecs := by
  refine ⟨fun d => ?_, rfl, rfl, fun _ _ _ => rfl, fun f r => ?_, rfl, rfl, rfl, rfl⟩
  · cases d <;> simp [kindCode]
  · cases f <;> rfl

end Sys2Proof.Machine

/-!
PROOFS. The family 30_encoding, what the codes do: refused words (R75), enabling (R75, R89 to R103), the rows of the
classification map against DECODE (R59, R69, R103), the identity by format (R125), `popdecode` (R80).
-/

namespace Sys2Proof.Machine

/-! ### Words the block gives no meaning -/

/-- Inside a read every word that is no RX_BYTE only sets the refusal mark (R75(b)). -/
theorem exec_word_midRead {s : State} {w : TraceWord} {operand : ByteString} {i : Instr}
    (h : WordDecodes operand w i) (hmid : s.midRead = true) (hop : w.extractLsb' 9 3 ≠ 0) :
    exec i s = .next s.markRefused := by
  cases h with
  | rxByte more d => exact absurd (opField_eq_zero_iff.mp (opField_mkWord 0 more d)) hop
  | refused => exact exec_refusedWord s w
  | rxTimeout => exact atWord_midRead _ _ hmid
  | stop => exact atWord_midRead _ _ hmid
  | pop => exact atWord_midRead _ _ hmid
  | decode => exact atWord_midRead _ _ hmid
  | checksum => exact atWord_midRead _ _ hmid
  | asmIssue => exact atWord_midRead _ _ hmid
  | asmHalt => exact atWord_midRead _ _ hmid

/-! ### The rows of the classification map -/

theorem exec_frameAck {s : State} (hf : s.faulted = false) (F : ByteString) :
    exec (.frameAck F) s = .next (s.giveFrameResult F (ackResult s.cfg F)) := by
  rw [exec, execFrameAck, whenEnabled_true _ hf rfl]

theorem exec_frameUnrecognised {s : State} (hf : s.faulted = false) (F : ByteString) :
    exec (.frameUnrecognised F) s = .next (s.giveFrameResult F .unrecognizedFrame) := by
  rw [exec, execFrameUnrecognised, whenEnabled_true _ hf rfl]

theorem exec_frameOfReport {s : State} (hf : s.faulted = false) (f : ReportFormat) (F : ByteString) :
    exec (frameOfReport f F) s = .next (s.giveFrameResult F (reportResult s.cfg f F)) := by
  cases f with
  | activeReport => rw [frameOfReport, exec, execFrameActiveReport, whenEnabled_true _ hf rfl]
  | passiveReportWithId => rw [frameOfReport, exec, execFramePassiveReportWithId, whenEnabled_true _ hf rfl]
  | passiveReportNoId => rw [frameOfReport, exec, execFramePassiveReportNoId, whenEnabled_true _ hf rfl]

/-! ### Enabling -/

/-- The answer is a next state where `P` holds, and is stuck as not enabled where it does not. -/
def CompletesExactlyIf (P : Prop) (r : Result) : Prop :=
  (P ∧ ∃ t, r = .next t) ∨ (¬P ∧ r = .fault .notEnabled)

theorem whenEnabled_completesExactlyIf {s : State} {en : Bool} {act : State → Result} {P : Prop}
    (hf : s.faulted = false) (hen : en = true ↔ P) (hact : ∃ t, act s = .next t) :
    CompletesExactlyIf P (whenEnabled s en act) := by
  cases en with
  | true => exact .inl ⟨hen.mp rfl, by rwa [whenEnabled_true act hf rfl]⟩
  | false => exact .inr ⟨fun hP => Bool.false_ne_true (hen.mpr hP), whenEnabled_false act hf rfl⟩

theorem atWord_completesExactlyIf {s : State} {en : Bool} {act : State → Result} {P : Prop} (hs : Ready s)
    (hen : en = true ↔ P) (hact : ∃ t, act s = .next t) : CompletesExactlyIf P (atWord s en act) := by
  rw [atWord_outside en act hs.1]
  exact whenEnabled_completesExactlyIf hs.2 hen hact

/-- Outside a read and with no fault bit, what an operation answers is decided by its enabling condition. -/
theorem exec_completesExactlyIf_enabled {s : State} (hs : Ready s) (i : Instr) :
    CompletesExactlyIf (enabledIn i s.phase s.stopReq) (exec i s) := by
  have always : true = true ↔ True := by decide
  cases i with
  | rxByte more d => exact whenEnabled_completesExactlyIf hs.2 decide_eq_true_iff (receive_completes _ _ _)
  | rxChunk bs =>
    exact whenEnabled_completesExactlyIf hs.2 (by simp [enabledIn]) (receive_completes _ _ _)
  | rxTimeout => exact atWord_completesExactlyIf hs decide_eq_true_iff (endRead_completes _)
  | stop => exact atWord_completesExactlyIf hs always ⟨_, rfl⟩
  | pop => exact atWord_completesExactlyIf hs always ⟨_, rfl⟩
  | decode F => exact atWord_completesExactlyIf hs always ⟨_, rfl⟩
  | checksum bs => exact atWord_completesExactlyIf hs always ⟨_, rfl⟩
  | asmIssue => exact atWord_completesExactlyIf hs (by simp [enabledIn]) ⟨_, rfl⟩
  | asmHalt => exact atWord_completesExactlyIf hs (by simp [enabledIn]) ⟨_, rfl⟩
  | refusedWord w => exact .inl ⟨trivial, _, rfl⟩
  | frameActiveReport F => exact .inl ⟨trivial, _, exec_frameOfReport hs.2 .activeReport F⟩
  | frameAck F => exact .inl ⟨trivial, _, exec_frameAck hs.2 F⟩
  | framePassiveReportWithId F => exact .inl ⟨trivial, _, exec_frameOfReport hs.2 .passiveReportWithId F⟩
  | framePassiveReportNoId F => exact .inl ⟨trivial, _, exec_frameOfReport hs.2 .passiveReportNoId F⟩
  | frameUnrecognised F => exact .inl ⟨trivial, _, exec_frameUnrecognised hs.2 F⟩
  | cmd hi lo => exact .inl ⟨trivial, _, rfl⟩

/-- Settles O18: (a) and (b) by what the word decodes to, (c) by the end of the trace, the rest by enabling. -/
theorem meaninglessWordsAreRefused : Obligations.MeaninglessWordsAreRefused := by
  refine ⟨fun s w operand rest hop hlow htrace => ?_, fun s w operand rest hmid hop htrace => ?_,
    fun s hmid htrace => ?_, fun s i hs hdisabled => ?_⟩
  · rw [step_word htrace (decodeWord_refused operand hop hlow)]
    exact exec_refusedWord _ w
  · obtain ⟨i, hi⟩ := exists_wordDecodes w operand
    rw [step_word htrace (decodeWord_eq_iff.mpr hi)]
    exact exec_word_midRead hi hmid hop
  · rw [step_nil htrace]
    exact if_pos hmid
  · obtain ⟨henabled, -⟩ | ⟨-, hstuck⟩ := exec_completesExactlyIf_enabled hs i
    · exact absurd henabled hdisabled
    · exact hstuck

/-- Settles O19. -/
theorem nextStateExactlyWhenEnabled : Obligations.NextStateExactlyWhenEnabled := by
  intro s i hs
  obtain ⟨henabled, hnext⟩ | ⟨hdisabled, hstuck⟩ := exec_completesExactlyIf_enabled hs i
  · exact iff_of_true hnext henabled
  · exact iff_of_false (by simp [hstuck]) hdisabled

/-! ### DECODE does what the rows do -/

theorem ackResult_of_length_ne_one {cfg : Config} {F : ByteString} (hexact : cfg.ackExact = true)
    (hlen : F.length ≠ 1) : ackResult cfg F = .unrecognizedFrame := by
  simp [ackResult, hexact, hlen]

theorem reportResult_of_tooShort {cfg : Config} {f : ReportFormat} {F : ByteString}
    (h : F.length < (cfg.fmt.layout f).minLen) : reportResult cfg f F = .unrecognizedFrame :=
  if_pos h

theorem exec_decode_of_ready {s : State} (hs : Ready s) (F : ByteString) :
    exec (.decode F) s = .next (s.giveResult F (decodeFrame s.cfg F)) :=
  calc exec (.decode F) s = whenEnabled s true _ := atWord_outside _ _ hs.1
    _ = .next (s.giveResult F (decodeFrame s.cfg F)) := whenEnabled_true _ hs.2 rfl

theorem decodeFrame_of_none {cfg : Config} {F : ByteString} (h : classify cfg.fmt F = none) :
    decodeFrame cfg F = .unrecognizedFrame := by
  simp only [decodeFrame, h]

theorem decodeFrame_of_ack {cfg : Config} {F : ByteString} (h : classify cfg.fmt F = some .ack) :
    decodeFrame cfg F = ackResult cfg F := by
  simp only [decodeFrame, h]

theorem decodeFrame_of_report {cfg : Config} {F : ByteString} {f : ReportFormat}
    (h : classify cfg.fmt F = some (.report f)) : decodeFrame cfg F = reportResult cfg f F := by
  simp only [decodeFrame, h]

/-- The row the map gives a frame hands out what DECODE finds: the length conditions of the rows, where they send a
frame to the unrecognised row, are those at which the arms of DECODE answer UnrecognizedFrame. -/
theorem exec_decodeFrameRow {s : State} (hf : s.faulted = false) (F : ByteString) :
    exec (decodeFrameRow s.cfg F) s = .next (s.giveFrameResult F (decodeFrame s.cfg F)) := by
  cases hclass : classify s.cfg.fmt F with
  | none => simp only [decodeFrameRow, hclass, exec_frameUnrecognised hf, decodeFrame_of_none hclass]
  | some fmt =>
    cases fmt with
    | ack =>
      simp only [decodeFrameRow, hclass, decodeFrame_of_ack hclass]
      split
      · next hlong =>
        obtain ⟨hexact, hlen⟩ := Bool.and_eq_true_iff.mp hlong
        rw [ackResult_of_length_ne_one hexact (of_decide_eq_true hlen)]
        exact exec_frameUnrecognised hf F
      · exact exec_frameAck hf F
    | report f =>
      rw [decodeFrameRow_of_report hclass, decodeFrame_of_report hclass]
      split
      · exact exec_frameOfReport hf f F
      · next hshort =>
        rw [reportResult_of_tooShort (Nat.lt_of_not_le hshort)]
        exact exec_frameUnrecognised hf F

/-- Settles O31. -/
theorem decodeDoesWhatTheFrameRowDoes : Obligations.DecodeDoesWhatTheFrameRowDoes :=
  fun s F hs => ⟨decodeFrame s.cfg F, exec_decode_of_ready hs F, exec_decodeFrameRow hs.2 F⟩

/-- Settles O34. -/
theorem unrecognisedRowIsAResult : Obligations.UnrecognisedRowIsAResult :=
  fun _ F hf => exec_frameUnrecognised hf F

/-! ### The prefixes of the source's table -/

/-- No two formats' prefixes in the source's table begin one another (R69). -/
theorem eq_of_source_leadOf_prefix {f g : Format}
    (h : FormatTable.source.leadOf f <+: FormatTable.source.leadOf g) : f = g := by
  revert h
  rcases f with _ | _ | _ | _ <;> rcases g with _ | _ | _ | _ <;> decide

theorem source_format_unique {F : ByteString} {f g : Format}
    (hf : matchesLead (FormatTable.source.leadOf f) F = true)
    (hg : matchesLead (FormatTable.source.leadOf g) F = true) : f = g := by
  obtain h | h := List.prefix_or_prefix_of_prefix (matchesLead_iff.mp hf) (matchesLead_iff.mp hg)
  · exact eq_of_source_leadOf_prefix h
  · exact (eq_of_source_leadOf_prefix h).symm

theorem mem_classificationOrder (f : Format) : f ∈ classificationOrder := by
  rcases f with _ | _ | _ | _ <;> decide

theorem matchesLead_of_classify {t : FormatTable} {F : ByteString} {f : Format} (h : classify t F = some f) :
    matchesLead (t.leadOf f) F = true :=
  List.find?_some (p := fun f => matchesLead (t.leadOf f) F) h

theorem exists_classify_of_matchesLead {t : FormatTable} {F : ByteString} {f : Format}
    (h : matchesLead (t.leadOf f) F = true) : ∃ g, classify t F = some g :=
  Option.isSome_iff_exists.mp (List.find?_isSome.mpr ⟨f, mem_classificationOrder f, h⟩)

/-- Settles O36: classification selects some format that matches, and no other one does. -/
theorem prefixesAreExclusive : Obligations.PrefixesAreExclusive := by
  intro F f g hf hg
  obtain ⟨selected, hclass⟩ := exists_classify_of_matchesLead hf
  have hselected : selected = f := source_format_unique (matchesLead_of_classify hclass) hf
  exact ⟨source_format_unique hf hg, hselected ▸ hclass⟩

/-! ### The identity -/

theorem reportKind_inj {f g : ReportFormat} {r r' : Reading} (h : reportKind f r = reportKind g r') : f = g := by
  cases f <;> cases g <;> simp_all [reportKind]

theorem isSome_identity_extract (L : ReportLayout) (F : ByteString) :
    (extract L F).identity.isSome = L.idOff.isSome := by
  rw [extract]
  cases L.idOff <;> rfl

/-- Which formats of the source's table carry an identity (R65). -/
theorem isSome_source_idOff_iff (f : ReportFormat) :
    (FormatTable.source.layout f).idOff.isSome = true ↔ f ≠ .passiveReportNoId := by
  cases f <;> decide

/-- Settles O42: the reading is the extraction of its format (R27), which takes the identity from the table's offset. -/
theorem identityIsPresentByFormat : Obligations.IdentityIsPresentByFormat := by
  intro cfg F f r hsource hdec
  have hreading : readingOf (decodeFrame cfg F) = some r := by rw [hdec, readingOf_reportKind]
  obtain ⟨-, -, g, -, hdec', -, hextract⟩ := onlyValidatedReadingsAreReturned cfg F r hreading
  obtain rfl : f = g := reportKind_inj (hdec.symm.trans hdec')
  refine ⟨?_, by rw [advisoryOf, hreading, Option.map_some], rfl⟩
  rw [hextract, isSome_identity_extract, hsource, isSome_source_idOff_iff]

/-! ### `popdecode` -/

theorem step_decodePopped {s : State} {rest : List Input} (htrace : s.trace = .decodePopped :: rest) :
    step s = runDecodePopped (s.withTrace rest) := step_cons htrace

theorem runDecodePopped_some {s : State} {F : ByteString} (h : lastPopped s.log = some F) :
    runDecodePopped s = exec (.decode F) s := by
  simp [runDecodePopped, h]

theorem runDecodePopped_none {s : State} (h : lastPopped s.log = none) : runDecodePopped s = .next s := by
  simp [runDecodePopped, h]

theorem run_one (s : State) : run 1 s = step s := by
  cases h : step s <;> simp [run, h]

/-- POP and the inputs still to come do not meet. -/
theorem State.popFrame_withTrace (s : State) (now later : List Input) :
    (s.withTrace now).popFrame.withTrace later = (s.withTrace later).popFrame := by
  cases hq : s.q <;> simp [State.popFrame, hq, State.withTrace]

/-- The two steps of `popdecode`: the POP, then DECODE of what it returned. -/
theorem run_popdecode {s : State} {rest : List Input} (hs : Ready s) (htrace : s.trace = assemble [.popdecode] ++ rest) :
    run 2 s = runDecodePopped (s.withTrace rest).popFrame := by
  have hpop : decodeWord 0x600 [] = .pop := decodeWord_eq_iff.mpr .pop
  have hfirst : step s = .next (s.withTrace (.decodePopped :: rest)).popFrame :=
    (step_word htrace hpop).trans (exec_pop_of_ready hs)
  rw [run_succ 1 hfirst, run_one, step_decodePopped (State.popFrame_trace _), State.popFrame_withTrace]

/-- Settles O14. -/
theorem popDecodeDecodesThePoppedFrame : Obligations.PopDecodeDecodesThePoppedFrame := by
  intro s rest hs htrace
  rw [run_popdecode hs htrace]
  refine ⟨fun hempty => ?_, fun F frames hq => ?_⟩
  · rw [State.popFrame_nil (s.withTrace rest) hempty]
    exact runDecodePopped_none (lastPopped_append_popped _ _)
  · rw [State.popFrame_cons (s.withTrace rest) F frames hq]
    exact runDecodePopped_some (lastPopped_append_popped _ _)

end Sys2Proof.Machine

/-!
PROOFS. The family 40_checksum: the 8-bit sum (R81, R82), the two validity checks (R83, R84), CHECKSUM (R81) and the
command frames (R85 to R87).
-/

namespace Sys2Proof.Machine

/-! ### The 8-bit sum -/

/-- The engine's accumulator runs through the list's sum in `BitVec 8`; the library's laws of sums then apply. -/
theorem sum8_eq_sum (bs : ByteString) : sum8 bs = bs.sum := List.sum_eq_foldl.symm

@[simp] theorem sum8_nil : sum8 [] = 0 := rfl

@[simp] theorem sum8_cons (b : Byte) (bs : ByteString) : sum8 (b :: bs) = b + sum8 bs := by
  simp only [sum8_eq_sum, List.sum_cons]

@[simp] theorem sum8_append (A B : ByteString) : sum8 (A ++ B) = sum8 A + sum8 B := by
  simp only [sum8_eq_sum, List.sum_append]

theorem sum8_singleton (b : Byte) : sum8 [b] = b := by simp

theorem sum8_perm {A B : ByteString} (h : A.Perm B) : sum8 A = sum8 B := by
  simpa only [sum8_eq_sum] using h.sum_eq

/-- The 8-bit sum is the unbounded sum of the values modulo 256: dropping the carry at every step or once at the end
is the same (R81). -/
theorem toNat_sum8 (bs : ByteString) : (sum8 bs).toNat = (bs.map BitVec.toNat).sum % 256 := by
  induction bs with
  | nil => rfl
  | cons b bs ih => rw [sum8_cons, BitVec.toNat_add, ih, Nat.add_mod_mod, List.map_cons, List.sum_cons]

theorem sum8_eq_ofNat (bs : ByteString) : sum8 bs = BitVec.ofNat 8 ((bs.map BitVec.toNat).sum % 256) := by
  rw [← toNat_sum8, BitVec.ofNat_toNat, BitVec.setWidth_eq]

/-- What the other bytes add cancels, so one changed byte changes the sum by the byte's own difference (R82). -/
theorem sum8_changed_byte (A B : ByteString) (x y : Byte) :
    sum8 (A ++ y :: B) - sum8 (A ++ x :: B) = y - x := by
  rw [sum8_append, sum8_append, sum8_cons, sum8_cons, add_sub_add_left_eq_sub, add_sub_add_right_eq_sub]

/-- Settles O24. -/
theorem sumLawsHold : Obligations.SumLawsHold := by
  refine ⟨fun _ _ => sum8_perm, toNat_sum8, fun A B => ?_, sum8_singleton, fun A B x y hxy => ?_⟩
  · rw [sum8_append, BitVec.toNat_add]
  · refine ⟨sum8_changed_byte A B x y, fun hsame => hxy ?_⟩
    have hdiff : y - x = 0 := by rw [← sum8_changed_byte A B x y, hsame, sub_self]
    exact (sub_eq_zero.mp hdiff).symm

/-! ### CHECKSUM -/

/-- Outside a read and with no fault bit set, CHECKSUM's gate is open (R81). -/
theorem exec_checksum_of_ready {s : State} (hs : Ready s) (bs : ByteString) :
    exec (.checksum bs) s = .next (s.emit (.summed (sum8 bs))) :=
  calc exec (.checksum bs) s = whenEnabled s true _ := atWord_outside _ _ hs.1
    _ = .next (s.emit (.summed (sum8 bs))) := whenEnabled_true _ hs.2 rfl

/-- Settles O23. -/
theorem checksumReturnsTheSumMod256 : Obligations.ChecksumReturnsTheSumMod256 := by
  refine ⟨fun cfg bs => ?_, fun s bs hs => ?_⟩
  · have hword : (0xA00 : TraceWord) = mkWord 5 false 0 := by decide
    rw [hword]
    exact decode_word_eq_iff.mpr .checksum
  · rw [exec_checksum_of_ready hs, sum8_eq_ofNat]
    rfl

/-! ### The two validity checks -/

theorem checksumHolds_iff {F : ByteString} {c : Nat} {b : Byte} (hbyte : F[c]? = some b) (hlen : 2 ≤ F.length) :
    checksumHolds F c = true ↔ b = sum8 (F.take (F.length - 2)) := by
  rw [checksumHolds_of_two_le c hlen, byteAt_of_getElem? hbyte, beq_iff_eq]

/-- Settles O25. One byte beyond the minimum length puts the checksum byte itself into the sum, on both sides of the
comparison. -/
theorem checksumCheckSumsAllButTheFinalTwo : Obligations.ChecksumCheckSumsAllButTheFinalTwo := by
  intro F c b hbyte
  refine ⟨checksumHolds_iff hbyte, fun hlen => ?_, fun hlen => ?_⟩
  · rw [checksumHolds_iff hbyte (by omega), hlen, Nat.add_sub_cancel]
  · have hsummed : F.take (F.length - 2) = F.take c ++ [b] := by
      rw [hlen, Nat.add_sub_assoc (by decide), List.take_add_one, hbyte, Option.toList_some]
    rw [checksumHolds_iff hbyte (by omega), hsummed, sum8_append, sum8_singleton, right_eq_add]

theorem stopHolds_of_getElem? {F : ByteString} {n : Nat} {b : Byte} (hbyte : F[n]? = some b) :
    stopHolds F n = (b == 0x16) := by
  rw [stopHolds, byteAt_of_getElem? hbyte]

/-- Settles O26. -/
theorem stopCheckLooksAtOneOffset : Obligations.StopCheckLooksAtOneOffset := by
  refine fun F G n b hF => ⟨?_, fun hG => ?_⟩
  · rw [stopHolds_of_getElem? hF, beq_iff_eq]
  · rw [stopHolds_of_getElem? hG, stopHolds_of_getElem? hF]

/-! ### The command frames -/

/-- R58's seven bytes with the checksum written out. -/
theorem commandFrame_eq (hi lo : Byte) :
    commandFrame hi lo = [0xFE, 0xFE, 0x11, hi, lo, 0x11 + hi + lo, 0x16] := by
  have hsum : sum8 [0x11, hi, lo] = 0x11 + hi + lo := by
    rw [sum8_cons, sum8_cons, sum8_singleton, add_assoc]
  rw [commandFrame, hsum]

theorem exec_cmd (s : State) (hi lo : Byte) : exec (.cmd hi lo) s = .next (s.emit (.commanded (commandFrame hi lo))) :=
  rfl

/-- Settles O27. -/
theorem commandFrameIsBuilt : Obligations.CommandFrameIsBuilt := by
  intro s hi lo
  rw [exec_cmd, commandFrame_eq]
  rfl

/-- Settles O29. -/
theorem readWithoutIdFrameIsBuilt : Obligations.ReadWithoutIdFrameIsBuilt := by
  have hchk : (0x11 : Byte) + 0x5B + 0x0F = 0x7B := by decide
  rw [Obligations.ReadWithoutIdFrameIsBuilt, ← hchk]
  exact commandFrame_eq 0x5B 0x0F

/-- The two markers in front of the bytes a command frame sums add 0xFC. -/
theorem sum8_commandFrame_take (hi lo : Byte) :
    sum8 ((commandFrame hi lo).take 5) = sum8 [0x11, hi, lo] + 0xFC := by
  have hmarkers : sum8 [0xFE, 0xFE] = 0xFC := by decide
  calc sum8 ((commandFrame hi lo).take 5) = sum8 ([0xFE, 0xFE] ++ [0x11, hi, lo]) := rfl
    _ = sum8 [0x11, hi, lo] + 0xFC := by rw [sum8_append, hmarkers, add_comm]

/-- None of the source's four reply leads begins with the marker byte of a command (R58, R59). -/
theorem source_matchesLead_marker (f : Format) (rest : ByteString) :
    matchesLead (FormatTable.source.leadOf f) (0xFE :: rest) = false := by
  rw [matchesLead_eq_hasLead]
  rcases f with _ | _ | _ | _ <;> rfl

theorem classify_source_marker (rest : ByteString) : classify .source (0xFE :: rest) = none := by
  cases hclass : classify .source (0xFE :: rest) with
  | none => rfl
  | some f => exact absurd (matchesLead_of_classify hclass) (Bool.eq_false_iff.mp (source_matchesLead_marker f rest))

/-- Settles O28. -/
theorem commandFrameIsNoReply : Obligations.CommandFrameIsNoReply := by
  intro hi lo
  have hchk : (commandFrame hi lo)[5]? = some (sum8 [0x11, hi, lo]) := rfl
  refine ⟨hchk, sum8_commandFrame_take hi lo, ?_, fun cfg hcfg => ?_⟩
  · have hrange : (commandFrame hi lo).take ((commandFrame hi lo).length - 2) = (commandFrame hi lo).take 5 := rfl
    have hmarkers : (0xFC : Byte) ≠ 0 := by decide
    rw [← Bool.not_eq_true, checksumHolds_iff hchk (by simp [commandFrame]), hrange, sum8_commandFrame_take,
      left_eq_add]
    exact hmarkers
  · apply decodeFrame_of_none
    rw [hcfg]
    exact classify_source_marker _

end Sys2Proof.Machine

/-!
PROOFS. The family 41_assembler, one operation at a time: what each does where its gate is open and where it is shut
(R89 to R96), the halted assembler (R91), the stopped one (R34, R102).
-/

namespace Sys2Proof.Machine

/-! ### The operations whose gate is open

`exec_pop_of_ready` stands with the family 20_memory. -/

theorem exec_asmIssue_of_going {s : State} (hs : Ready s) (atTop : s.phase = .top) (going : s.stopReq = false) :
    exec .asmIssue s = .next s.issueRead :=
  calc exec .asmIssue s = whenEnabled s _ _ := atWord_outside _ _ hs.1
    _ = .next s.issueRead := whenEnabled_true _ hs.2 (by simp [atTop, going])

theorem exec_asmHalt_of_stopping {s : State} (hs : Ready s) (atTop : s.phase = .top) (stopping : s.stopReq = true) :
    exec .asmHalt s = .next s.haltLoop :=
  calc exec .asmHalt s = whenEnabled s _ _ := atWord_outside _ _ hs.1
    _ = .next s.haltLoop := whenEnabled_true _ hs.2 (by simp [atTop, stopping])

theorem exec_rxChunk_of_reading {s : State} {bs : ByteString} (hf : s.faulted = false) (reading : s.phase = .inRead)
    (hne : bs ≠ []) : exec (.rxChunk bs) s = receive bs false s :=
  whenEnabled_true _ hf (by simp [reading, hne])

theorem exec_rxByte_of_reading {s : State} (hf : s.faulted = false) (reading : s.phase = .inRead) (more : Bool)
    (d : Byte) : exec (.rxByte more d) s = receive [d] more s :=
  whenEnabled_true _ hf (decide_eq_true reading)

theorem exec_rxTimeout_of_reading {s : State} (hs : Ready s) (reading : s.phase = .inRead) :
    exec .rxTimeout s = endRead s :=
  calc exec .rxTimeout s = whenEnabled s _ endRead := atWord_outside _ _ hs.1
    _ = endRead s := whenEnabled_true _ hs.2 (decide_eq_true reading)

theorem exec_stop_of_ready {s : State} (hs : Ready s) : exec .stop s = .next s.requestStop :=
  calc exec .stop s = whenEnabled s true _ := atWord_outside _ _ hs.1
    _ = .next s.requestStop := whenEnabled_true _ hs.2 rfl

/-! ### The operations whose gate is shut -/

theorem exec_notEnabled {s : State} {i : Instr} (hs : Ready s) (hdisabled : ¬ enabledIn i s.phase s.stopReq) :
    exec i s = .fault .notEnabled :=
  meaninglessWordsAreRefused.2.2.2 s i hs hdisabled

/-- The words of a read are accepted inside a read, so only a fault bit and the phase count for them (R75(b)). -/
theorem exec_rxByte_notEnabled {s : State} (hf : s.faulted = false) (notReading : s.phase ≠ .inRead) (more : Bool)
    (d : Byte) : exec (.rxByte more d) s = .fault .notEnabled :=
  whenEnabled_false _ hf (decide_eq_false notReading)

theorem exec_rxChunk_notEnabled {s : State} (hf : s.faulted = false) (notReading : s.phase ≠ .inRead)
    (bs : ByteString) : exec (.rxChunk bs) s = .fault .notEnabled :=
  whenEnabled_false _ hf (by simp [notReading])

/-! ### The capacity checks -/

theorem receive_of_fits {bs : ByteString} {s : State} (fits : s.bufferOverflows bs.length = false) (more : Bool) :
    receive bs more s = .next (s.append bs more) := by
  simp [receive, fits]

theorem receive_of_overflow {bs : ByteString} {s : State} (tooLong : s.bufferOverflows bs.length = true) (more : Bool) :
    receive bs more s = .next ((s.noteRead more).setFault .bufOvf) := by
  simp [receive, raiseFault, tooLong]

theorem endRead_of_empty {s : State} (empty : s.buf = []) : endRead s = .next s.endEmptyRead := if_pos empty

theorem endRead_of_room {s : State} (nonEmpty : s.buf ≠ []) (room : s.queueFull = false) :
    endRead s = .next s.pushFrame := by
  simp [endRead, nonEmpty, room]

theorem endRead_of_full {s : State} (nonEmpty : s.buf ≠ []) (full : s.queueFull = true) :
    endRead s = .next (s.setFault .qOvf) := by
  simp [endRead, raiseFault, nonEmpty, full]

/-! ### The words of a read -/

theorem length_readWords (bs : ByteString) : (readWords bs).length = bs.length := by
  induction bs using readWords.induct with
  | case1 => rfl
  | case2 b => rfl
  | case3 b b' bs ih => simp only [readWords, List.length_cons, ih]

theorem opField_of_mem_readWords {bs : ByteString} {w : TraceWord} (hw : w ∈ readWords bs) : opField w = 0 := by
  induction bs using readWords.induct with
  | case1 => simp [readWords] at hw
  | case2 b =>
    obtain rfl : w = mkWord 0 false b := by simpa [readWords] using hw
    exact opField_mkWord 0 false b
  | case3 b b' bs ih =>
    rw [readWords, List.mem_cons] at hw
    obtain rfl | hw := hw
    · exact opField_mkWord 0 true b
    · exact ih hw

/-- The number of an RX_BYTE word (R74). -/
theorem toNat_mkWord_zero (more : Bool) (d : Byte) :
    (mkWord 0 more d).toNat = (if more then 0x100 else 0) + d.toNat := by
  rw [mkWord, BitVec.toNat_append, ← Nat.shiftLeft_add_eq_or_of_lt d.isLt]
  cases more <;> rfl

theorem mkWord_zero_eq_ofNat (more : Bool) (d : Byte) :
    mkWord 0 more d = BitVec.ofNat 12 ((if more then 0x100 else 0) + d.toNat) := by
  rw [← toNat_mkWord_zero, BitVec.ofNat_toNat, BitVec.setWidth_eq]

/-! ### The operations of the FA, the CHANNEL, CONTROL and POP -/

/-- Settles O1: the gate of ASM_ISSUE, open and shut. -/
theorem asmIssueStartsOneRead : Obligations.AsmIssueStartsOneRead :=
  ⟨fun _ => decode_word_eq_iff.mpr .asmIssue, fun _ hs =>
    ⟨fun ⟨atTop, going⟩ => exec_asmIssue_of_going hs atTop going, exec_notEnabled (i := .asmIssue) hs⟩⟩

/-- Settles O2: the gate of ASM_HALT, open and shut. -/
theorem asmHaltDropsThePartialFrame : Obligations.AsmHaltDropsThePartialFrame :=
  ⟨fun _ => decode_word_eq_iff.mpr .asmHalt, fun _ hs =>
    ⟨fun ⟨atTop, stopping⟩ => exec_asmHalt_of_stopping hs atTop stopping, exec_notEnabled (i := .asmHalt) hs⟩⟩

/-- Settles O3: with a read outstanding the chunk is received, and the capacity check decides how. -/
theorem rxChunkAppendsAndEndsTheRead : Obligations.RxChunkAppendsAndEndsTheRead := by
  refine ⟨fun bs => ⟨length_readWords bs, fun _ => opField_of_mem_readWords⟩, fun s bs hf hne =>
    ⟨fun reading fits => ?_, fun reading tooLong => ?_, fun notReading => exec_rxChunk_notEnabled hf notReading bs⟩⟩
  · rw [exec_rxChunk_of_reading hf reading hne]
    exact receive_of_fits (bufferOverflows_false.mpr fits) false
  · rw [exec_rxChunk_of_reading hf reading hne]
    exact receive_of_overflow (bufferOverflows_true.mpr tooLong) false

/-- Settles O4: as RX_CHUNK of one byte, with `M` for the end of the read. -/
theorem rxByteAppendsOneByte : Obligations.RxByteAppendsOneByte := by
  refine ⟨fun cfg more d => ?_, fun s more d hf => ⟨fun reading fits => ?_, fun reading tooLong => ?_,
    fun notReading => exec_rxByte_notEnabled hf notReading more d⟩⟩
  · rw [← mkWord_zero_eq_ofNat]
    exact decode_word_eq_iff.mpr (.rxByte more d)
  · rw [exec_rxByte_of_reading hf reading, receive_of_fits (bufferOverflows_false.mpr fits), ← reading]
    rfl
  · rw [exec_rxByte_of_reading hf reading]
    exact receive_of_overflow (bufferOverflows_true.mpr tooLong) more

/-- Settles O5: outside a read's bytes an outstanding read ends, and the buffer and the queue decide how. -/
theorem rxTimeoutPushesTheWholeBuffer : Obligations.RxTimeoutPushesTheWholeBuffer := by
  refine ⟨fun _ => decode_word_eq_iff.mpr .rxTimeout, fun _ hmid _ => atWord_midRead _ _ hmid, fun s hs =>
    ⟨fun reading empty => ?_, fun reading nonEmpty room => ?_, fun reading nonEmpty full => ?_,
      exec_notEnabled (i := .rxTimeout) hs⟩⟩
  · rw [exec_rxTimeout_of_reading hs reading]
    exact endRead_of_empty empty
  · rw [exec_rxTimeout_of_reading hs reading]
    exact endRead_of_room nonEmpty (queueFull_false.mpr room)
  · rw [exec_rxTimeout_of_reading hs reading]
    exact endRead_of_full nonEmpty (queueFull_true.mpr full)

/-- Settles O6: the word's gate is open in every phase, and a write of CTRL goes through the same gate. -/
theorem stopSetsTheStopFlag : Obligations.StopSetsTheStopFlag :=
  ⟨fun _ => decode_word_eq_iff.mpr .stop, fun s hs =>
    ⟨exec_stop_of_ready hs, fun v rest hset htrace => (ctrlWriteLooksAtBitZero s v rest htrace).1 hset hs.2⟩⟩

/-- Settles O7. -/
theorem popReturnsTheHeadOrNone : Obligations.PopReturnsTheHeadOrNone := by
  refine ⟨fun _ => decode_word_eq_iff.mpr .pop, fun s hs => ⟨fun hempty => ?_, fun F rest hq => ?_⟩⟩
  · rw [exec_pop_of_ready hs, State.popFrame_nil s hempty]
  · rw [exec_pop_of_ready hs, State.popFrame_cons s F rest hq]

/-! ### The halted assembler -/

/-- The loop moves on from the top and from an outstanding read only (R21). -/
theorem StateChange.phase_eq_or {s t : State} (hc : StateChange s t) :
    t.phase = s.phase ∨ s.phase = .top ∨ s.phase = .inRead := by
  cases hc with
  | issueRead _ atTop | halt _ atTop => exact .inr (.inl atTop)
  | append _ _ reading | overflowBuffer _ _ reading | endEmptyRead _ reading | push _ reading
  | overflowQueue _ reading => exact .inr (.inr reading)
  | same | refuse | output | requestStop | pop => simp

theorem StateChange.keeps_halted {s t : State} (hc : StateChange s t) (halted : s.phase = .halted) :
    t.phase = .halted := by
  obtain hsame | hmoves := hc.phase_eq_or
  · exact hsame.trans halted
  · simp [halted] at hmoves

/-- Settles O9: HALTED enables no step of the FA or the CHANNEL, and none of the changes leaves it. -/
theorem haltedUntilReset : Obligations.HaltedUntilReset := by
  intro s halted
  refine ⟨fun hs => ?_, fun x t hinput => ?_⟩
  · have stuck (i : Instr) (hi : ¬ enabledIn i .halted s.stopReq) : exec i s = .fault .notEnabled :=
      exec_notEnabled hs (halted ▸ hi)
    have completes (i : Instr) (hi : enabledIn i s.phase s.stopReq) : ∃ t, exec i s = .next t :=
      (nextStateExactlyWhenEnabled s i hs).mpr hi
    exact ⟨stuck .asmIssue (by simp [enabledIn]), stuck .asmHalt (by simp [enabledIn]),
      stuck .rxTimeout (by simp [enabledIn]), fun bs => stuck (.rxChunk bs) (by simp [enabledIn]),
      fun more d => stuck (.rxByte more d) (by simp [enabledIn]), completes .pop trivial,
      fun F => completes (.decode F) trivial, fun bs => completes (.checksum bs) trivial, completes .stop trivial⟩
  · obtain hc | ⟨hreset, -⟩ := runInput_change hinput
    · exact .inr (hc.keeps_halted halted)
    · exact .inl hreset

/-! ### The stopped assembler -/

/-- What the end of a read leaves: the loop at its top, outside a read, with the stop flag as it was. -/
structure EndsTheRead (s t : State) : Prop where
  atTop : t.phase = .top
  outside : t.midRead = false
  stopReq : t.stopReq = s.stopReq

theorem receive_last_endsTheRead {bs : ByteString} {s t : State} (h : receive bs false s = .next t)
    (hok : t.faulted = false) : EndsTheRead s t := by
  obtain ⟨-, rfl⟩ | ⟨-, rfl⟩ := receive_next h
  · simp at hok
  · exact ⟨rfl, rfl, rfl⟩

theorem endRead_endsTheRead {s t : State} (h : endRead s = .next t) (outside : s.midRead = false)
    (hok : t.faulted = false) : EndsTheRead s t := by
  obtain ⟨-, rfl⟩ | ⟨-, -, rfl⟩ | ⟨-, -, rfl⟩ := endRead_next h
  · exact ⟨rfl, outside, rfl⟩
  · simp at hok
  · exact ⟨rfl, outside, rfl⟩

/-- Settles O10: each way to complete the read ends it, and at the top of the loop a set stop flag shuts the gate of
ASM_ISSUE and opens that of ASM_HALT. -/
theorem stoppedAssemblerHaltsAfterOneRead : Obligations.StoppedAssemblerHaltsAfterOneRead := by
  intro s t i _ stopping _ hi hexec hok
  have hends : EndsTheRead s t := by
    obtain ⟨rfl, outside⟩ | ⟨bs, rfl⟩ | ⟨d, rfl⟩ := hi
    · rw [exec, execRxTimeout, atWord_outside _ _ outside] at hexec
      exact endRead_endsTheRead (whenEnabled_next hexec).2.2 outside hok
    · exact receive_last_endsTheRead (whenEnabled_next (show whenEnabled _ _ _ = _ from hexec)).2.2 hok
    · exact receive_last_endsTheRead (whenEnabled_next (show whenEnabled _ _ _ = _ from hexec)).2.2 hok
  have hready : Ready t := ⟨hends.outside, hok⟩
  have hstopped : t.stopReq = true := hends.stopReq.trans stopping
  exact ⟨hends.atTop, hstopped, exec_notEnabled hready (by simp [enabledIn, hstopped]),
    exec_asmHalt_of_stopping hready hends.atTop hstopped⟩

end Sys2Proof.Machine

/-!
PROOFS. The family 41_assembler, runs of words: the RX_BYTE words of a chunk against RX_CHUNK (R93, R97), the loop over
any read results (R100), two reads against one (R97).
-/

namespace Sys2Proof.Machine

/-! ### Runs that take given inputs -/

/-- The block takes the inputs `xs`, whatever comes after them, and is then as `t`, whose own trace does not count. -/
def Takes (s : State) (xs : List Input) (t : State) : Prop :=
  ∀ rest, run xs.length (s.withTrace (xs ++ rest)) = .next (t.withTrace rest)

theorem Takes.run_eq {s t : State} {xs rest : List Input} (h : Takes s xs t) (htrace : s.trace = xs ++ rest) :
    run xs.length s = .next (t.withTrace rest) := by
  rw [← h rest, ← htrace, State.withTrace_self]

theorem Takes.nil (s : State) : Takes s [] s := fun _ => rfl

theorem Takes.append {s t u : State} {xs ys : List Input} (hx : Takes s xs t) (hy : Takes t ys u) :
    Takes s (xs ++ ys) u := by
  intro rest
  rw [List.length_append, List.append_assoc, run_add _ (hx (ys ++ rest))]
  exact hy rest

/-- A word is taken as its operation, which does not look at the inputs still to come. -/
theorem takes_word {s t : State} {w : TraceWord} {i : Instr} (hword : WordDecodes [] w i)
    (hexec : ∀ rest, exec i (s.withTrace rest) = .next (t.withTrace rest)) : Takes s [wordInput w] t :=
  fun rest =>
    calc run 1 (s.withTrace (wordInput w :: rest)) = step (s.withTrace (wordInput w :: rest)) := run_one _
      _ = exec i (s.withTrace rest) := step_word rfl (decodeWord_of_wordDecodes hword)
      _ = .next (t.withTrace rest) := hexec rest

theorem takes_issue {s : State} (hs : Ready s) (atTop : s.phase = .top) (going : s.stopReq = false) :
    Takes s [wordInput 0xC00] s.issueRead :=
  takes_word .asmIssue fun rest => exec_asmIssue_of_going (s := s.withTrace rest) hs atTop going

theorem takes_halt {s : State} (hs : Ready s) (atTop : s.phase = .top) (stopping : s.stopReq = true) :
    Takes s [wordInput 0xE00] s.haltLoop :=
  takes_word .asmHalt fun rest => exec_asmHalt_of_stopping (s := s.withTrace rest) hs atTop stopping

theorem takes_stop {s : State} (hs : Ready s) : Takes s [wordInput 0x400] s.requestStop :=
  takes_word .stop fun rest => exec_stop_of_ready (s := s.withTrace rest) hs

theorem takes_timeoutWord_of_empty {s : State} (hs : Ready s) (reading : s.phase = .inRead) (empty : s.buf = []) :
    Takes s [wordInput 0x200] s.endEmptyRead :=
  takes_word .rxTimeout fun rest =>
    (exec_rxTimeout_of_reading (s := s.withTrace rest) hs reading).trans (endRead_of_empty empty)

theorem takes_timeoutWord_of_room {s : State} (hs : Ready s) (reading : s.phase = .inRead) (nonEmpty : s.buf ≠ [])
    (room : s.queueFull = false) : Takes s [wordInput 0x200] s.pushFrame :=
  takes_word .rxTimeout fun rest =>
    (exec_rxTimeout_of_reading (s := s.withTrace rest) hs reading).trans (endRead_of_room nonEmpty room)

theorem takes_byte_of_fits {s : State} (hf : s.faulted = false) (reading : s.phase = .inRead)
    (fits : s.bufferOverflows 1 = false) (more : Bool) (d : Byte) :
    Takes s [wordInput (mkWord 0 more d)] (s.append [d] more) :=
  takes_word (.rxByte more d) fun rest =>
    (exec_rxByte_of_reading (s := s.withTrace rest) hf reading more d).trans
      (receive_of_fits (bs := [d]) (s := s.withTrace rest) fits more)

theorem takes_byte_of_overflow {s : State} (hf : s.faulted = false) (reading : s.phase = .inRead)
    (tooLong : s.bufferOverflows 1 = true) (more : Bool) (d : Byte) :
    Takes s [wordInput (mkWord 0 more d)] ((s.noteRead more).setFault .bufOvf) :=
  takes_word (.rxByte more d) fun rest =>
    (exec_rxByte_of_reading (s := s.withTrace rest) hf reading more d).trans
      (receive_of_overflow (bs := [d]) (s := s.withTrace rest) tooLong more)

/-! ### The words of one read -/

theorem State.append_append (s : State) (A B : ByteString) (more : Bool) :
    (s.append A true).append B more = s.append (A ++ B) more := by
  simp [State.append]

/-- Bytes appended are room used up. -/
theorem State.append_bufferOverflows (s : State) (bs : ByteString) (more : Bool) (n : Nat) :
    (s.append bs more).bufferOverflows n = s.bufferOverflows (bs.length + n) := by
  simp [State.bufferOverflows, Nat.add_assoc]

theorem bufferOverflows_false_of_le {s : State} {m n : Nat} (hle : m ≤ n) (fits : s.bufferOverflows n = false) :
    s.bufferOverflows m = false :=
  bufferOverflows_false.mpr fun c hc =>
    (Nat.add_le_add_left hle s.buf.length).trans (bufferOverflows_false.mp fits c hc)

/-- Where the bytes fit, the words of a read append them one by one as the chunk does at once (R97). -/
theorem takes_readWords {s : State} {bs : ByteString} (hf : s.faulted = false) (reading : s.phase = .inRead)
    (hne : bs ≠ []) (fits : s.bufferOverflows bs.length = false) :
    Takes s ((readWords bs).map wordInput) (s.append bs false) := by
  induction bs using readWords.induct generalizing s with
  | case1 => contradiction
  | case2 b => exact takes_byte_of_fits hf reading fits false b
  | case3 b b' bs ih =>
    have hfirst : Takes s [wordInput (mkWord 0 true b)] (s.append [b] true) :=
      takes_byte_of_fits hf reading (bufferOverflows_false_of_le (by simp) fits) true b
    have hrest : Takes (s.append [b] true) ((readWords (b' :: bs)).map wordInput)
        ((s.append [b] true).append (b' :: bs) false) := by
      refine ih hf reading (List.cons_ne_nil _ _) ?_
      rwa [State.append_bufferOverflows, Nat.add_comm]
    rw [State.append_append] at hrest
    exact hfirst.append hrest

/-- Where the bytes do not fit, some of the words of a read are taken and the last of these overflows. -/
theorem takes_readWords_of_overflow {s : State} {bs : ByteString} (hf : s.faulted = false)
    (reading : s.phase = .inRead) (hne : bs ≠ []) (tooLong : s.bufferOverflows bs.length = true) :
    ∃ xs ys t, (readWords bs).map wordInput = xs ++ ys ∧ Takes s xs t ∧ t.fBufOvf = true := by
  induction bs using readWords.induct generalizing s with
  | case1 => contradiction
  | case2 b => exact ⟨_, [], _, (List.append_nil _).symm, takes_byte_of_overflow hf reading tooLong false b, rfl⟩
  | case3 b b' bs ih =>
    cases hfirst : s.bufferOverflows 1 with
    | true => exact ⟨[_], _, _, rfl, takes_byte_of_overflow hf reading hfirst true b, rfl⟩
    | false =>
      have htooLong : (s.append [b] true).bufferOverflows (b' :: bs).length = true := by
        rwa [State.append_bufferOverflows, Nat.add_comm]
      obtain ⟨xs, ys, t, hsplit, htakes, hovf⟩ :=
        ih (s := s.append [b] true) hf reading (List.cons_ne_nil _ _) htooLong
      refine ⟨wordInput (mkWord 0 true b) :: xs, ys, t, ?_, ?_, hovf⟩
      · rw [readWords, List.map_cons, hsplit, List.cons_append]
      · exact (takes_byte_of_fits hf reading hfirst true b).append htakes

theorem length_map_readWords (bs : ByteString) : ((readWords bs).map wordInput).length = bs.length := by
  rw [List.length_map, length_readWords]

/-- Settles O11: where the bytes fit both sides are the one append, and where they do not both sides overflow. -/
theorem byteWordsHaveTheEffectOfTheChunk : Obligations.ByteWordsHaveTheEffectOfTheChunk := by
  intro s bs rest hf reading hne htrace
  refine ⟨fun hfits => ?_, fun hover => ⟨?_, ?_⟩⟩
  · have fits : s.bufferOverflows bs.length = false := bufferOverflows_false.mpr hfits
    calc run bs.length s = .next ((s.append bs false).withTrace rest) := by
          rw [← length_map_readWords]
          exact (takes_readWords hf reading hne fits).run_eq htrace
      _ = receive bs false (s.withTrace rest) := (receive_of_fits (s := s.withTrace rest) fits false).symm
      _ = exec (.rxChunk bs) (s.withTrace rest) :=
        (exec_rxChunk_of_reading (s := s.withTrace rest) hf reading hne).symm
  · obtain ⟨xs, ys, t, hsplit, htakes, hovf⟩ :=
      takes_readWords_of_overflow hf reading hne (bufferOverflows_true.mpr hover)
    refine ⟨xs.length, t.withTrace (ys ++ rest), ?_, htakes.run_eq ?_, hovf⟩
    · rw [← length_map_readWords, hsplit, List.length_append]
      exact Nat.le_add_right _ _
    · rw [htrace, hsplit, List.append_assoc]
  · rw [exec_rxChunk_of_reading hf reading hne]
    exact ⟨_, receive_of_overflow (bufferOverflows_true.mpr hover) false, rfl⟩

/-! ### The loop -/

theorem Takes.lines_append {s t u : State} {ls ms : List TraceLine} (hl : Takes s (assemble ls) t)
    (hm : Takes t (assemble ms) u) : Takes s (assemble (ls ++ ms)) u := by
  rw [assemble, List.flatMap_append]
  exact hl.append hm

/-- The top of the loop with no stop requested, no fault and an unbounded buffer: a read can be issued and its bytes
will fit. -/
structure AtLoopTop (s : State) : Prop where
  ready : Ready s
  atTop : s.phase = .top
  going : s.stopReq = false
  unbounded : s.cfg.frameCap = none

theorem AtLoopTop.fits {s : State} (h : AtLoopTop s) (n : Nat) : s.bufferOverflows n = false :=
  bufferOverflows_false.mpr (by simp [h.unbounded])

/-- A read that is issued and gets bytes comes back to the top of the loop with the bytes appended. -/
theorem AtLoopTop.takes_chunk {s : State} (h : AtLoopTop s) {bs : ByteString} (hne : bs ≠ []) :
    Takes s (assemble [.issue, .rx bs]) { s with buf := s.buf ++ bs } := by
  have hissue : Takes s [wordInput 0xC00] s.issueRead := takes_issue h.ready h.atTop h.going
  have hwords : Takes s.issueRead ((readWords bs).map wordInput) (s.issueRead.append bs false) :=
    takes_readWords h.ready.2 rfl hne (h.fits bs.length)
  have hback : s.issueRead.append bs false = { s with buf := s.buf ++ bs } := by
    simp [State.append, State.issueRead, h.atTop, h.ready.1]
  simpa [assemble, TraceLine.inputs, hback] using hissue.append hwords

theorem AtLoopTop.appended {s : State} (h : AtLoopTop s) (bs : ByteString) :
    AtLoopTop { s with buf := s.buf ++ bs } :=
  { h with }

/-- A read that is issued and times out with nothing gathered changes nothing. -/
theorem AtLoopTop.takes_timeout_of_empty {s : State} (h : AtLoopTop s) (empty : s.buf = []) :
    Takes s (assemble [.issue, .timeout]) s := by
  have hissue : Takes s [wordInput 0xC00] s.issueRead := takes_issue h.ready h.atTop h.going
  have hend : Takes s.issueRead [wordInput 0x200] s.issueRead.endEmptyRead :=
    takes_timeoutWord_of_empty h.ready rfl empty
  have hback : s.issueRead.endEmptyRead = s := by
    simp [State.endEmptyRead, State.issueRead, ← h.atTop]
  exact hback ▸ hissue.append hend

theorem AtLoopTop.takes_timeout_of_room {s : State} (h : AtLoopTop s) (nonEmpty : s.buf ≠ [])
    (room : s.queueFull = false) : Takes s (assemble [.issue, .timeout]) s.pushFrame :=
  have hissue : Takes s [wordInput 0xC00] s.issueRead := takes_issue h.ready h.atTop h.going
  have hpush : Takes s.issueRead [wordInput 0x200] s.issueRead.pushFrame :=
    takes_timeoutWord_of_room h.ready rfl nonEmpty room
  hissue.append hpush

theorem AtLoopTop.pushed {s : State} (h : AtLoopTop s) : AtLoopTop s.pushFrame := { h with atTop := rfl }

theorem AtLoopTop.takes_stop_halt {s : State} (h : AtLoopTop s) :
    Takes s (assemble [.stop, .halt]) s.requestStop.haltLoop :=
  (takes_stop h.ready).append (takes_halt (s := s.requestStop) h.ready h.atTop rfl)

/-! ### The frames that read results cut -/

/-- The queue and the buffer R100 gives for the read results `rs` from `s` on. -/
def cutFrom (s : State) (rs : List ReadResult) : List ByteString × ByteString :=
  (s.q ++ (cutFrames s.buf rs).1, (cutFrames s.buf rs).2)

/-- One iteration comes back to the top of the loop, and what R100 gives for the results still to come is what it gave
with this one in front. -/
theorem AtLoopTop.takes_iteration {s : State} (h : AtLoopTop s) (hqueue : s.cfg.queueCap = none) (r : ReadResult)
    (rs : List ReadResult) :
    ∃ t, Takes s (assemble (iteration r)) t ∧ AtLoopTop t ∧ t.cfg.queueCap = none ∧
      cutFrom t rs = cutFrom s (r :: rs) := by
  cases r with
  | chunk b bs => exact ⟨_, h.takes_chunk (List.cons_ne_nil b bs), h.appended _, hqueue, rfl⟩
  | timeout =>
    by_cases hbuf : s.buf = []
    · exact ⟨s, h.takes_timeout_of_empty hbuf, h, hqueue, by simp [cutFrom, cutFrames, hbuf]⟩
    · have room : s.queueFull = false := queueFull_false.mpr (by simp [hqueue])
      exact ⟨_, h.takes_timeout_of_room hbuf room, h.pushed, hqueue, by simp [cutFrom, cutFrames, hbuf]⟩

/-- The loop over any read results, by induction on them (R100). -/
theorem AtLoopTop.takes_iterations {s : State} (h : AtLoopTop s) (hqueue : s.cfg.queueCap = none)
    (rs : List ReadResult) :
    ∃ t, Takes s (assemble (iterations rs)) t ∧ AtLoopTop t ∧ (t.q, t.buf) = cutFrom s rs := by
  induction rs generalizing s with
  | nil => exact ⟨s, .nil s, h, by simp [cutFrom, cutFrames]⟩
  | cons r rs ih =>
    obtain ⟨u, hfirst, hu, huqueue, hcut⟩ := h.takes_iteration hqueue r rs
    obtain ⟨t, hrest, ht, htcut⟩ := ih hu huqueue
    exact ⟨t, hfirst.lines_append hrest, ht, htcut.trans hcut⟩

/-- Settles O12: the loop ends at its top with what R100 gives, where a stop and a halt empty the buffer only. -/
theorem pushedFramesAreTheReadsCutAtTimeouts : Obligations.PushedFramesAreTheReadsCutAtTimeouts := by
  intro s rs rest hready atTop going hframe hqueue
  have hs : AtLoopTop s := ⟨hready, atTop, going, hframe⟩
  obtain ⟨t, htakes, ht, hcut⟩ := hs.takes_iterations hqueue rs
  obtain ⟨hq, hbuf⟩ := Prod.ext_iff.mp hcut
  refine ⟨fun htrace => ?_, fun htrace => ?_⟩
  · exact ⟨_, htakes.run_eq htrace, hq, hbuf, ht.atTop, ht.going, ht.ready, rfl⟩
  · exact ⟨_, (htakes.lines_append ht.takes_stop_halt).run_eq htrace, hq, rfl, rfl, rfl⟩

/-! ### Two reads against one -/

/-- Settles O13: one read or two bring the loop back to its top with the same bytes, and a halt drops them. -/
theorem chunkingIsUnobservable : Obligations.ChunkingIsUnobservable := by
  intro s A B rest hready atTop going hframe hA hB
  have hs : AtLoopTop s := ⟨hready, atTop, going, hframe⟩
  have hA' : Takes s (assemble [.issue, .rx A]) _ := hs.takes_chunk hA
  have hB' : Takes _ (assemble [.issue, .rx B]) _ := (hs.appended A).takes_chunk hB
  have hAB : Takes s (assemble [.issue, .rx (A ++ B)]) _ :=
    hs.takes_chunk (List.append_ne_nil_of_left_ne_nil hA B)
  have hboth : Takes s (assemble [.issue, .rx A, .issue, .rx B]) { s with buf := s.buf ++ (A ++ B) } :=
    List.append_assoc s.buf A B ▸ hA'.lines_append hB'
  exact ⟨hAB rest, hboth rest, hAB.lines_append (hs.appended (A ++ B)).takes_stop_halt rest,
    hA'.lines_append (hs.appended A).takes_stop_halt rest⟩

end Sys2Proof.Machine

/-!
PROOFS. The family 42_decoder: DECODE and the rows of the classification map (R103 to R111), extraction (R108) and
what over-length frames add to it (R114), the frames no format takes (R107), one changed byte (R113).
-/

namespace Sys2Proof.Machine

/-! ### DECODE and the rows -/

/-- Settles O30. -/
theorem decodeReturnsAResult : Obligations.DecodeReturnsAResult := by
  refine ⟨fun cfg F => ?_, fun s F hs => exec_decode_of_ready hs F⟩
  have hword : (0x800 : TraceWord) = mkWord 4 false 0 := by decide
  rw [hword]
  exact decode_word_eq_iff.mpr .decode

/-- A report's result, by the length and the two checks over the frame (R106, R109, R110, R132). -/
theorem reportResult_eq (cfg : Config) (f : ReportFormat) (F : ByteString) :
    reportResult cfg f F =
      if F.length < (cfg.fmt.layout f).minLen then .unrecognizedFrame
      else if checksumHolds F (cfg.fmt.layout f).chkOff = true ∧ stopHolds F (cfg.fmt.layout f).stopOff = true then
        reportKind f (extract (cfg.fmt.layout f) F)
      else
        .validationFailed f (checksumHolds F (cfg.fmt.layout f).chkOff) (stopHolds F (cfg.fmt.layout f).stopOff) := by
  simp only [← Bool.and_eq_true]
  rfl

/-- Settles O32. -/
theorem reportRowsGiveTheValidatedResult : Obligations.ReportRowsGiveTheValidatedResult := by
  intro s F hf result answer
  have hrow (f : ReportFormat) : exec (frameOfReport f F) s = answer (result f) := by
    rw [exec_frameOfReport hf, reportResult_eq]
    rfl
  exact ⟨hrow .activeReport, hrow .passiveReportWithId, hrow .passiveReportNoId⟩

/-- P_ACK_EXACT false, or the one byte it asks for (R105). -/
theorem ackResult_of_accepted {cfg : Config} {F : ByteString} (h : cfg.ackExact = false ∨ F.length = 1) :
    ackResult cfg F = .ack := by
  rw [ackResult, if_pos]
  simpa using h

/-- Settles O33. -/
theorem ackNeedsOneByteWhenExact : Obligations.AckNeedsOneByteWhenExact := by
  refine ⟨rfl, fun s F hf => ⟨fun haccepted => ?_, fun hexact hlen => ?_⟩⟩
  · rw [exec_frameAck hf, ackResult_of_accepted haccepted]
    rfl
  · rw [exec_frameAck hf, ackResult_of_length_ne_one hexact hlen]
    rfl

/-! ### The frames that are not recognised -/

theorem ackResult_eq_unrecognizedFrame_iff {cfg : Config} {F : ByteString} :
    ackResult cfg F = .unrecognizedFrame ↔ cfg.ackExact = true ∧ F.length ≠ 1 := by
  refine ⟨fun h => ?_, fun ⟨hexact, hlen⟩ => ackResult_of_length_ne_one hexact hlen⟩
  by_contra hnot
  have haccepted : cfg.ackExact = false ∨ F.length = 1 := by
    rwa [not_and_or, Bool.not_eq_true, not_not] at hnot
  simp [ackResult_of_accepted haccepted] at h

theorem reportResult_eq_unrecognizedFrame_iff {cfg : Config} {f : ReportFormat} {F : ByteString} :
    reportResult cfg f F = .unrecognizedFrame ↔ F.length < (cfg.fmt.layout f).minLen := by
  refine ⟨fun h => ?_, reportResult_of_tooShort⟩
  obtain ⟨hshort, -⟩ | ⟨-, -, -, hres⟩ | ⟨-, _, _, -, hres⟩ := reportResult_cases cfg f F
  · exact hshort
  · cases f <;> cases hres.symm.trans h
  · cases hres.symm.trans h

/-- The three cases of R107 under any table, told apart by what the classification selects. -/
theorem decodeFrame_eq_unrecognizedFrame_iff {cfg : Config} {F : ByteString} :
    decodeFrame cfg F = .unrecognizedFrame ↔
      classify cfg.fmt F = none ∨
      (∃ f, classify cfg.fmt F = some (.report f) ∧ F.length < (cfg.fmt.layout f).minLen) ∨
      (classify cfg.fmt F = some .ack ∧ cfg.ackExact = true ∧ F.length ≠ 1) := by
  cases hclass : classify cfg.fmt F with
  | none => simp [decodeFrame_of_none hclass]
  | some fmt =>
    cases fmt with
    | ack => simp [decodeFrame_of_ack hclass, ackResult_eq_unrecognizedFrame_iff]
    | report f => simp [decodeFrame_of_report hclass, reportResult_eq_unrecognizedFrame_iff]

/-- The leads exclude each other, so what a frame begins with settles its format (R69, R104). -/
theorem classify_source_eq_some_iff {F : ByteString} {f : Format} :
    classify .source F = some f ↔ FormatTable.source.leadOf f <+: F := by
  rw [← matchesLead_iff]
  exact ⟨matchesLead_of_classify, fun h => (prefixesAreExclusive F f f h h).2⟩

theorem classify_source_eq_none_iff_forall_not {F : ByteString} :
    classify .source F = none ↔ ∀ f, ¬ FormatTable.source.leadOf f <+: F := by
  simp only [Option.eq_none_iff_forall_ne_some, ne_eq, classify_source_eq_some_iff]

/-- The four leads that a frame must not begin with, read off its first two bytes. -/
theorem classify_source_eq_none_iff {F : ByteString} :
    classify .source F = none ↔
      F.length = 0 ∨ (∃ b rest, F = b :: rest ∧ b ≠ 0x3C ∧ b ≠ 0xE5) ∨ F = [0x3C] ∨
        ∃ b rest, F = 0x3C :: b :: rest ∧ b ≠ 0x32 ∧ b ≠ 0x96 ∧ b ≠ 0x64 := by
  have hleads : classify .source F = none ↔
      ¬ [0xE5] <+: F ∧ ¬ [0x3C, 0x32] <+: F ∧ ¬ [0x3C, 0x96] <+: F ∧ ¬ [0x3C, 0x64] <+: F := by
    rw [classify_source_eq_none_iff_forall_not]
    refine ⟨fun h => ⟨h .ack, h (.report .activeReport), h (.report .passiveReportWithId),
      h (.report .passiveReportNoId)⟩, fun ⟨hack, hactive, hwith, hno⟩ f => ?_⟩
    rcases f with _ | _ | _ | _
    exacts [hack, hactive, hwith, hno]
  rw [hleads]
  match F with
  | [] => simp
  | [a] => by_cases ha : a = 0x3C#8 <;> simp [ha, eq_comm]
  | a :: b :: rest => by_cases ha : a = 0x3C#8 <;> simp [ha, eq_comm]

theorem classify_source_ack_iff {F : ByteString} : classify .source F = some .ack ↔ ∃ rest, F = 0xE5 :: rest := by
  rw [classify_source_eq_some_iff]
  exact exists_congr fun rest => eq_comm

theorem classify_source_report_iff {F : ByteString} {f : ReportFormat} {b c : Byte}
    (hlead : FormatTable.source.leadOf (.report f) = [b, c]) :
    classify .source F = some (.report f) ↔ ∃ rest, F = b :: c :: rest := by
  rw [classify_source_eq_some_iff, hlead]
  exact exists_congr fun rest => eq_comm

/-- A report lead of the source's table with too few bytes behind it (R106). -/
theorem classify_source_tooShort_iff {F : ByteString} :
    (∃ f, classify .source F = some (.report f) ∧ F.length < (FormatTable.source.layout f).minLen) ↔
      (∃ rest, F = 0x3C :: 0x32 :: rest ∧ F.length < 32) ∨
        (∃ rest, F = 0x3C :: 0x96 :: rest ∧ F.length < 39) ∨ ∃ rest, F = 0x3C :: 0x64 :: rest ∧ F.length < 23 := by
  simp only [exists_and_right, ← classify_source_report_iff (f := .activeReport) rfl,
    ← classify_source_report_iff (f := .passiveReportWithId) rfl,
    ← classify_source_report_iff (f := .passiveReportNoId) rfl]
  constructor
  · rintro ⟨f, hclass, hshort⟩
    cases f with
    | activeReport => exact .inl ⟨hclass, hshort⟩
    | passiveReportWithId => exact .inr (.inl ⟨hclass, hshort⟩)
    | passiveReportNoId => exact .inr (.inr ⟨hclass, hshort⟩)
  · rintro (⟨hclass, hshort⟩ | ⟨hclass, hshort⟩ | ⟨hclass, hshort⟩) <;> exact ⟨_, hclass, hshort⟩

/-- Settles O35: the three cases of R107, each read off the frame's first bytes. -/
theorem unrecognizedExactlyWhen : Obligations.UnrecognizedExactlyWhen := by
  intro cfg F hsource
  rw [decodeFrame_eq_unrecognizedFrame_iff, hsource, classify_source_eq_none_iff, classify_source_tooShort_iff,
    classify_source_ack_iff]

/-! ### Bytes and fields -/

/-- At an offset inside a frame a read gives the frame's byte; beyond the end it is free (log 10). -/
theorem byteAt_congr {F G : ByteString} {i : Nat} (hi : i < F.length) (h : G[i]? = F[i]?) :
    byteAt G i = byteAt F i := by
  have hF : F[i]? = some F[i] := List.getElem?_eq_getElem hi
  rw [byteAt_of_getElem? hF, byteAt_of_getElem? (h.trans hF)]

/-- One byte more in front of a field: the further bytes are the more significant ones (R11, R38). -/
theorem ofNat_le_succ (w : Nat) (F : ByteString) (a n : Nat) :
    BitVec.ofNat (w + 8) (le F a (n + 1)) = BitVec.ofNat w (le F (a + 1) n) ++ byteAt F a := by
  have hb : (byteAt F a).toNat < 2 ^ 8 := (byteAt F a).isLt
  apply BitVec.eq_of_toNat_eq
  rw [BitVec.toNat_append, ← Nat.shiftLeft_add_eq_or_of_lt hb, Nat.shiftLeft_eq, BitVec.toNat_ofNat,
    BitVec.toNat_ofNat, le, pow_add, mul_comm (2 ^ w), Nat.mod_mul]
  have hrest : ((byteAt F a).toNat + 256 * le F (a + 1) n) / 2 ^ 8 = le F (a + 1) n := by omega
  rw [hrest]
  omega

theorem ofNat_le_one (F : ByteString) (a : Nat) : BitVec.ofNat 8 (le F a 1) = byteAt F a := by
  simp [le]

theorem field16_eq (F : ByteString) (a : Nat) : field16 F a = byteAt F (a + 1) ++ byteAt F a := by
  rw [field16, ofNat_le_succ 8, ofNat_le_one]

theorem field32_eq (F : ByteString) (a : Nat) :
    field32 F a = byteAt F (a + 3) ++ byteAt F (a + 2) ++ byteAt F (a + 1) ++ byteAt F a := by
  rw [field32, ofNat_le_succ 24, ofNat_le_succ 16, ofNat_le_succ 8, ofNat_le_one]

theorem field40_eq (F : ByteString) (a : Nat) :
    field40 F a = byteAt F (a + 4) ++ byteAt F (a + 3) ++ byteAt F (a + 2) ++ byteAt F (a + 1) ++ byteAt F a := by
  rw [field40, ofNat_le_succ 32, ofNat_le_succ 24, ofNat_le_succ 16, ofNat_le_succ 8, ofNat_le_one]

theorem field48_eq (F : ByteString) (a : Nat) :
    field48 F a = byteAt F (a + 5) ++ byteAt F (a + 4) ++ byteAt F (a + 3) ++ byteAt F (a + 2) ++ byteAt F (a + 1)
      ++ byteAt F a := by
  rw [field48, ofNat_le_succ 40, ofNat_le_succ 32, ofNat_le_succ 24, ofNat_le_succ 16, ofNat_le_succ 8, ofNat_le_one]

/-- The identity split at 16 bits leaves the two low bytes to the serial number (R67, R108). -/
theorem identityAt_some (F : ByteString) (o : Nat) :
    identityAt F (some o) = some
      { deviceManufData := byteAt F (o + 4) ++ byteAt F (o + 3) ++ byteAt F (o + 2),
        serialNumber := byteAt F (o + 1) ++ byteAt F o } := by
  have hsplit : field40 F o =
      (byteAt F (o + 4) ++ byteAt F (o + 3) ++ byteAt F (o + 2)) ++ (byteAt F (o + 1) ++ byteAt F o) :=
    (field40_eq F o).trans BitVec.append_assoc
  rw [identityAt, hsplit, manufOf, serialOf, BitVec.extractLsb'_append_eq_left, BitVec.extractLsb'_append_eq_right]

/-! ### Extraction -/

/-- The identity in a frame's bytes, split at 16 bits (R67, R108). -/
def identityOfBytes (b : Nat → Byte) (o : Nat) : Identity where
  deviceManufData := b (o + 4) ++ b (o + 3) ++ b (o + 2)
  serialNumber := b (o + 1) ++ b o

/-- The record that the byte maps of R60 to R62 read off a frame's bytes, beside a given checksum flag. -/
def readingOfBytes (L : ReportLayout) (b : Nat → Byte) (validChecksum : Bool) : Reading where
  identity := L.idOff.map (identityOfBytes b)
  accFlowFlag := b L.accFlowFlagOff
  accFlowRaw := b (L.accFlowOff + 5) ++ b (L.accFlowOff + 4) ++ b (L.accFlowOff + 3) ++ b (L.accFlowOff + 2)
    ++ b (L.accFlowOff + 1) ++ b L.accFlowOff
  instFlowFlag := b L.instFlowFlagOff
  instFlowRaw := b (L.instFlowOff + 3) ++ b (L.instFlowOff + 2) ++ b (L.instFlowOff + 1) ++ b L.instFlowOff
  flowSign := b L.flowSignOff
  tempFlag := b L.tempFlagOff
  waterTempRaw := b (L.waterTempOff + 1) ++ b L.waterTempOff
  status1 := b L.status1Off
  status2 := b L.status2Off
  validChecksum := validChecksum
  validStopByte := decide (b L.stopOff = 0x16)

/-- The bounds a well-formed layout sets, by name (R44, R83). -/
structure OffsetsFit (L : ReportLayout) : Prop where
  two_le : 2 ≤ L.minLen
  identity : ∀ o, L.idOff = some o → o + 5 ≤ L.minLen
  accFlowFlag : L.accFlowFlagOff < L.minLen
  accFlow : L.accFlowOff + 6 ≤ L.minLen
  instFlowFlag : L.instFlowFlagOff < L.minLen
  instFlow : L.instFlowOff + 4 ≤ L.minLen
  flowSign : L.flowSignOff < L.minLen
  tempFlag : L.tempFlagOff < L.minLen
  waterTemp : L.waterTempOff + 2 ≤ L.minLen
  status1 : L.status1Off < L.minLen
  status2 : L.status2Off < L.minLen
  chk : L.chkOff < L.minLen
  stop : L.stopOff < L.minLen

theorem offsetsFit_of_wellFormed {L : ReportLayout} (h : L.wellFormed = true) : OffsetsFit L := by
  simp only [ReportLayout.wellFormed, Bool.and_eq_true, decide_eq_true_iff] at h
  constructor
  case identity =>
    intro o ho
    simp only [ho, decide_eq_true_iff] at h
    tauto
  all_goals tauto

/-- A layout whose offsets fit reads only the bytes below its minimum length (R44, R108). -/
theorem extract_eq_readingOfBytes {L : ReportLayout} {F : ByteString} {b : Nat → Byte} (hfit : OffsetsFit L)
    (hbytes : ∀ i, i < L.minLen → byteAt F i = b i) :
    extract L F = readingOfBytes L b (checksumHolds F L.chkOff) := by
  obtain ⟨-, hid, haccFlag, hacc, hinstFlag, hinst, hsign, htempFlag, htemp, hstatus1, hstatus2, -, hstop⟩ := hfit
  have hidentity : identityAt F L.idOff = L.idOff.map (identityOfBytes b) := by
    cases hoff : L.idOff with
    | none => rfl
    | some o =>
      have ho := hid o hoff
      simp (disch := omega) only [identityAt_some, identityOfBytes, Option.map_some, hbytes]
  simp (disch := omega) only [extract, readingOfBytes, hidentity, field16_eq, field32_eq, field48_eq, stopHolds,
    hbytes, beq_eq_decide]

/-- Settles O38: the frame and its first `minLen` bytes agree on every byte the layout reads. -/
theorem extraBytesAreNoFields : Obligations.ExtraBytesAreNoFields := by
  intro L F hwf hlen
  have hfirst (i : Nat) (hi : i < L.minLen) : byteAt (F.take L.minLen) i = byteAt F i :=
    byteAt_congr (hi.trans_le hlen) (List.getElem?_take_of_lt hi)
  have hfit := offsetsFit_of_wellFormed hwf
  rw [extract_eq_readingOfBytes hfit fun _ _ => rfl, extract_eq_readingOfBytes hfit hfirst]
  rfl

theorem source_offsetsFit (f : ReportFormat) : OffsetsFit (FormatTable.source.layout f) := by
  apply offsetsFit_of_wellFormed
  cases f <;> decide

/-- Settles O37: the source's offsets fit, and each record of the statement is `readingOfBytes` of one. -/
theorem extractionFollowsTheByteMaps : Obligations.ExtractionFollowsTheByteMaps := by
  intro F b hb
  have hextract (f : ReportFormat) (hlen : (FormatTable.source.layout f).minLen ≤ F.length) :
      extract (FormatTable.source.layout f) F = readingOfBytes (FormatTable.source.layout f) b
        (decide (b (FormatTable.source.layout f).chkOff = sum8 (F.take (F.length - 2)))) := by
    have hfit := source_offsetsFit f
    have hbytes (i : Nat) (hi : i < (FormatTable.source.layout f).minLen) : byteAt F i = b i :=
      byteAt_of_getElem? (hb i (hi.trans_le hlen))
    rw [extract_eq_readingOfBytes hfit hbytes, checksumHolds_of_two_le _ (hfit.two_le.trans hlen),
      hbytes _ hfit.chk, beq_eq_decide]
  exact ⟨hextract .activeReport, hextract .passiveReportWithId, hextract .passiveReportNoId⟩

/-! ### One changed byte -/

/-- A byte beyond a lead has no part in matching it (R68). -/
theorem matchesLead_set {lead : ByteString} {i : Nat} (F : ByteString) (y : Byte) (h : lead.length ≤ i) :
    matchesLead lead (F.set i y) = matchesLead lead F := by
  rw [matchesLead, matchesLead, List.length_set, List.take_set_of_le h]

/-- A byte beyond every lead has no part in the classification (R104). -/
theorem classify_set {t : FormatTable} {i : Nat} (F : ByteString) (y : Byte) (h : ∀ f, (t.leadOf f).length ≤ i) :
    classify t (F.set i y) = classify t F := by
  simp only [classify, matchesLead_set F y (h _)]

theorem source_leadOf_length_le_two (f : Format) : (FormatTable.source.leadOf f).length ≤ 2 := by
  rcases f with _ | _ | _ | _ <;> decide

/-- A changed byte changes the 8-bit sum (R82). -/
theorem sum8_set_ne {bs : ByteString} {i : Nat} {x y : Byte} (hx : bs[i]? = some x) (hyx : y ≠ x) :
    sum8 (bs.set i y) ≠ sum8 bs := by
  obtain ⟨hi, rfl⟩ := List.getElem?_eq_some_iff.mp hx
  obtain ⟨A, B, hbs, -, hset⟩ := List.exists_of_set (a' := y) hi
  intro hsame
  apply sub_ne_zero.mpr hyx
  rw [← sum8_changed_byte A B, ← hset, ← hbs, hsame, sub_self]

/-- A changed byte among those summed, other than the checksum byte itself, turns a right checksum wrong (R83, R113). -/
theorem checksumHolds_set {F : ByteString} {i c : Nat} {x y : Byte} (hx : F[i]? = some x) (hyx : y ≠ x)
    (hsummed : i + 2 < F.length) (hc : c < F.length) (hic : i ≠ c) (hright : checksumHolds F c = true) :
    checksumHolds (F.set i y) c = false := by
  have htwo : 2 ≤ F.length := by omega
  have hinside : (F.take (F.length - 2))[i]? = some x := by rwa [List.getElem?_take_of_lt (by omega)]
  rw [checksumHolds_of_two_le c htwo, beq_iff_eq] at hright
  rw [checksumHolds_of_two_le c (by rwa [List.length_set]), List.length_set, List.take_set,
    byteAt_congr hc (List.getElem?_set_ne hic), hright, beq_eq_false_iff_ne]
  exact (sum8_set_ne hinside hyx).symm

/-- Settles O40: the change lies beyond the leads and keeps the length, so the format stays; the checksum tells. -/
theorem oneChangedByteIsDetected : Obligations.OneChangedByteIsDetected := by
  intro cfg F f i x y hsource hclass hlen htwo hx hyx
  have hclass' : classify cfg.fmt (F.set i y) = some (.report f) := by
    rw [classify_set F y fun g => ?_, hclass]
    rw [hsource]
    exact (source_leadOf_length_le_two g).trans htwo
  have hlen' : ¬ (F.set i y).length < (cfg.fmt.layout f).minLen := by rwa [List.length_set, Nat.not_lt]
  rw [decodeFrame_of_report hclass']
  refine ⟨hclass', ?_, fun hsummed hic hright => ?_⟩
  · obtain ⟨hshort, -⟩ | ⟨-, -, -, hres⟩ | ⟨-, vc, vs, -, hres⟩ := reportResult_cases cfg f (F.set i y)
    · exact absurd hshort hlen'
    · exact .inl ⟨_, hres⟩
    · exact .inr ⟨vc, vs, hres⟩
  · have hchk : (cfg.fmt.layout f).chkOff < (cfg.fmt.layout f).minLen := by
      rw [hsource]
      exact (source_offsetsFit f).chk
    have hwrong := checksumHolds_set hx hyx hsummed (hchk.trans_le hlen) hic hright
    exact ⟨_, by rw [reportResult_eq, if_neg hlen', hwrong, if_neg (fun ⟨h, _⟩ => Bool.false_ne_true h)]⟩

end Sys2Proof.Machine

/-!
PROOFS. The family 43_interpretation: the fixed-point splits (R120, R121, R123), presence, unit and sign by the flag
and sign bytes (R116 to R119, R122), the status bits (R126).
-/

namespace Sys2Proof.Machine

/-! ### The fixed-point splits -/

/-- The bits from `k` up are the quotient by `2 ^ k`, when the slice reaches the top of the field. -/
theorem extractLsb'_toNat_eq_div {w k n : Nat} (raw : BitVec w) (h : w ≤ k + n) :
    (raw.extractLsb' k n).toNat = raw.toNat / 2 ^ k := by
  have hquot : raw.toNat / 2 ^ k < 2 ^ n :=
    Nat.div_lt_of_lt_mul (raw.isLt.trans_le (Nat.pow_add 2 k n ▸ Nat.pow_le_pow_right Nat.two_pos h))
  rw [BitVec.extractLsb'_toNat, Nat.shiftRight_eq_div_pow, Nat.mod_eq_of_lt hquot]

/-- The lowest `k` bits are the remainder by `2 ^ k`. -/
theorem extractLsb'_zero_toNat_eq_mod {w : Nat} (raw : BitVec w) (k : Nat) :
    (raw.extractLsb' 0 k).toNat = raw.toNat % 2 ^ k := by
  rw [BitVec.extractLsb'_toNat, Nat.shiftRight_zero]

theorem accInt_toNat (raw : BitVec 48) : (accInt raw).toNat = raw.toNat / 2 ^ 12 :=
  extractLsb'_toNat_eq_div raw (by decide)

theorem accFrac_toNat (raw : BitVec 48) : (accFrac raw).toNat = raw.toNat % 2 ^ 12 :=
  extractLsb'_zero_toNat_eq_mod raw 12

theorem instInt_toNat (raw : BitVec 32) : (instInt raw).toNat = raw.toNat / 2 ^ 8 :=
  extractLsb'_toNat_eq_div raw (by decide)

theorem instFrac_toNat (raw : BitVec 32) : (instFrac raw).toNat = raw.toNat % 2 ^ 8 :=
  extractLsb'_zero_toNat_eq_mod raw 8

theorem tempInt_toNat (raw : BitVec 16) : (tempInt raw).toNat = raw.toNat / 2 ^ 8 :=
  extractLsb'_toNat_eq_div raw (by decide)

theorem tempFrac_toNat (raw : BitVec 16) : (tempFrac raw).toNat = raw.toNat % 2 ^ 8 :=
  extractLsb'_zero_toNat_eq_mod raw 8

/-! ### The flag and sign bytes -/

theorem accUnit_of_sentinel {flag : Byte} (h : flag = 0x0A ∨ flag = 0x1A) :
    accUnit flag = if flag = 0x0A then .liters else .cubicMeters := by
  obtain rfl | rfl := h <;> rfl

theorem accUnit_of_ne {flag : Byte} (hliters : flag ≠ 0x0A) (hcubic : flag ≠ 0x1A) : accUnit flag = .unknown := by
  rw [accUnit, if_neg hliters, if_neg hcubic]

theorem accUnit_ne_unknown_iff (flag : Byte) : accUnit flag ≠ .unknown ↔ flag = 0x0A ∨ flag = 0x1A := by
  constructor
  · intro hknown
    by_contra hother
    obtain ⟨hliters, hcubic⟩ := not_or.mp hother
    exact hknown (accUnit_of_ne hliters hcubic)
  · rintro (rfl | rfl) <;> decide

theorem accPresent_iff (r : Reading) : accPresent r = true ↔ r.accFlowFlag = 0x0A ∨ r.accFlowFlag = 0x1A :=
  decide_eq_true_iff.trans (accUnit_ne_unknown_iff r.accFlowFlag)

theorem instPresent_iff (r : Reading) : instPresent r = true ↔ r.instFlowFlag = 0x0B := beq_iff_eq

theorem tempPresent_iff (r : Reading) : tempPresent r = true ↔ r.tempFlag = 0x0D := beq_iff_eq

/-- The whole sign byte, not its bit 7 (R122). -/
theorem negative_iff (r : Reading) : negative r = true ↔ r.flowSign = 0x80 := beq_iff_eq

/-! ### Presence: `some` with the raw value, or `none`, never a number (R116) -/

/-- Settles O43. -/
theorem accumulatedFlowInterpretation : Obligations.AccumulatedFlowInterpretation := by
  intro r
  refine ⟨fun hflag => ?_, fun hliters hcubic => ⟨?_, accUnit_of_ne hliters hcubic⟩⟩
  · have hpresent := (accPresent_iff r).mpr hflag
    exact ⟨_, if_pos hpresent, rfl, accUnit_of_sentinel hflag, accInt_toNat _, accFrac_toNat _⟩
  · have habsent := (accPresent_iff r).not.mpr (not_or.mpr ⟨hliters, hcubic⟩)
    exact if_neg habsent

/-- Settles O44. -/
theorem instantaneousFlowInterpretation : Obligations.InstantaneousFlowInterpretation := by
  intro r
  refine ⟨fun hflag => ?_, fun hother => ?_⟩
  · have hpresent := (instPresent_iff r).mpr hflag
    exact ⟨_, if_pos hpresent, rfl, negative_iff r, instInt_toNat _, instFrac_toNat _⟩
  · have habsent := (instPresent_iff r).not.mpr hother
    exact if_neg habsent

/-- Settles O45. -/
theorem waterTemperatureInterpretation : Obligations.WaterTemperatureInterpretation := by
  intro r
  refine ⟨fun hflag => ?_, fun hother => ?_⟩
  · have hpresent := (tempPresent_iff r).mpr hflag
    exact ⟨_, if_pos hpresent, rfl, tempInt_toNat _, tempFrac_toNat _⟩
  · have habsent := (tempPresent_iff r).not.mpr hother
    exact if_neg habsent

/-! ### The status bits -/

/-- A test of a byte against a one-bit mask reads that bit. -/
theorem decide_and_twoPow_ne_zero (v : Byte) (i : Nat) (hi : i < 8) :
    decide (v &&& BitVec.twoPow 8 i ≠ 0) = v.getLsbD i := by
  have hmask : BitVec.twoPow 8 i ≠ 0#8 := by
    intro hzero
    have hbit := congrArg (·.getLsbD i) hzero
    simp [hi] at hbit
  rw [BitVec.and_twoPow]
  cases v.getLsbD i with
  | false => rfl
  | true => exact decide_eq_true hmask

/-! The masks 0x20, 0x08 and 0x04 of R126 are `2 ^ 5`, `2 ^ 3` and `2 ^ 2`. -/

theorem emptyTube_eq (r : Reading) : emptyTube r = r.status1.getLsbD 5 :=
  decide_and_twoPow_ne_zero r.status1 5 (by decide)

theorem chipError_eq (r : Reading) : chipError r = r.status2.getLsbD 5 :=
  decide_and_twoPow_ne_zero r.status2 5 (by decide)

theorem wrongDirection_eq (r : Reading) : wrongDirection r = r.status2.getLsbD 3 :=
  decide_and_twoPow_ne_zero r.status2 3 (by decide)

theorem rateOutOfRange_eq (r : Reading) : rateOutOfRange r = r.status2.getLsbD 2 :=
  decide_and_twoPow_ne_zero r.status2 2 (by decide)

/-- Settles O46: the interpretation hands the four predicates out whatever the flags. -/
theorem statusBitInterpretation : Obligations.StatusBitInterpretation := fun r =>
  ⟨emptyTube_eq r, chipError_eq r, wrongDirection_eq r, rateOutOfRange_eq r⟩

end Sys2Proof.Machine

/-!
PROOFS. The family 60_exceptions: the quiescent block (R130, R134), and what raises a fault (R129).
-/

namespace Sys2Proof.Machine

/-! ### The quiescent block -/

theorem atWord_faulted {s : State} (en : Bool) (act : State → Result) (outside : s.midRead = false)
    (hf : s.faulted = true) : atWord s en act = .fault .quiescent := by
  rw [atWord_outside _ _ outside, whenEnabled_faulted _ _ hf]

/-- Settles O16: every operation but a refused word and CMD stands behind a gate, which a set fault bit shuts; and of
the next states `exec_next` lists, all need the fault bits clear but the refusal mark and CMD's frame in the log. -/
theorem faultedBlockIsQuiescent : Obligations.FaultedBlockIsQuiescent := by
  refine fun s i hf => ⟨fun reached notRefused notCmd => ?_, fun t hexec => ?_⟩
  · cases i with
    | rxByte | rxChunk => exact whenEnabled_faulted _ _ hf
    | frameActiveReport F => rw [exec, execFrameActiveReport, whenEnabled_faulted _ _ hf]
    | frameAck F => rw [exec, execFrameAck, whenEnabled_faulted _ _ hf]
    | framePassiveReportWithId F => rw [exec, execFramePassiveReportWithId, whenEnabled_faulted _ _ hf]
    | framePassiveReportNoId F => rw [exec, execFramePassiveReportNoId, whenEnabled_faulted _ _ hf]
    | frameUnrecognised F => rw [exec, execFrameUnrecognised, whenEnabled_faulted _ _ hf]
    | rxTimeout | stop | pop | decode | checksum | asmIssue | asmHalt =>
      have outside : s.midRead = false := by simpa using reached
      exact atWord_faulted _ _ outside hf
    | refusedWord w => exact absurd rfl (notRefused w)
    | cmd hi lo => exact absurd rfl (notCmd hi lo)
  · obtain hmarked | hcommanded | ⟨hclear, -⟩ := exec_next hexec
    · exact .inl hmarked
    · exact .inr hcommanded
    · simp [hclear] at hf

/-! ### What raises a fault -/

/-- The steps that raise a fault: each operation with the condition of R129 and the state it leaves. -/
inductive RaisesFault (s : State) : Instr → State → Prop where
  | byteTooMany (more : Bool) (d : Byte) (reading : s.phase = .inRead) (tooLong : s.bufferOverflows 1 = true) :
      RaisesFault s (.rxByte more d) ((s.noteRead more).setFault .bufOvf)
  | chunkTooLong (bs : ByteString) (reading : s.phase = .inRead) (tooLong : s.bufferOverflows bs.length = true) :
      RaisesFault s (.rxChunk bs) ((s.noteRead false).setFault .bufOvf)
  | queueFull (reading : s.phase = .inRead) (nonEmpty : s.buf ≠ []) (full : s.queueFull = true) :
      RaisesFault s .rxTimeout (s.setFault .qOvf)

theorem receive_raises {bs : ByteString} {more : Bool} {s t : State} (h : receive bs more s = .next t)
    (hclear : s.faulted = false) (hraised : t.faulted = true) :
    s.bufferOverflows bs.length = true ∧ t = (s.noteRead more).setFault .bufOvf := by
  obtain hoverflow | ⟨-, rfl⟩ := receive_next h
  · exact hoverflow
  · simp [hclear] at hraised

theorem endRead_raises {s t : State} (h : endRead s = .next t) (hclear : s.faulted = false)
    (hraised : t.faulted = true) : s.buf ≠ [] ∧ s.queueFull = true ∧ t = s.setFault .qOvf := by
  obtain ⟨-, rfl⟩ | hoverflow | ⟨-, -, rfl⟩ := endRead_next h
  · simp [hclear] at hraised
  · exact hoverflow
  · simp [hclear] at hraised

/-- Only the three operations that take a read's result can raise a fault: every other one leaves the fault bits. -/
theorem exec_raises {i : Instr} {s t : State} (h : exec i s = .next t) (hclear : s.faulted = false)
    (hraised : t.faulted = true) : RaisesFault s i t := by
  obtain rfl | ⟨hi, lo, -, rfl⟩ | ⟨-, hop⟩ := exec_next h
  · simp [hclear] at hraised
  · simp [hclear] at hraised
  · obtain ⟨more, d, rfl, reading, hr⟩ | ⟨bs, rfl, -, reading, hr⟩ | ⟨rfl, -, reading, he⟩ | hother := hop
    · obtain ⟨tooLong, rfl⟩ := receive_raises hr hclear hraised
      exact .byteTooMany more d reading tooLong
    · obtain ⟨tooLong, rfl⟩ := receive_raises hr hclear hraised
      exact .chunkTooLong bs reading tooLong
    · obtain ⟨nonEmpty, full, rfl⟩ := endRead_raises he hclear hraised
      exact .queueFull reading nonEmpty full
    · obtain ⟨-, rfl⟩ | ⟨-, rfl⟩ | ⟨-, -, -, -, rfl⟩ | ⟨-, -, -, -, rfl⟩ | ⟨bs, -, rfl⟩ | ⟨F, -, rfl⟩ |
        ⟨F, d, -, rfl⟩ := hother <;> simp [hclear] at hraised

/-- Settles O17: each state a fault leaves differs in the fault bit and, after an RX word, in `midRead` (log 2) only. -/
theorem faultsArePreciseAndOnlyOnOverflow : Obligations.FaultsArePreciseAndOnlyOnOverflow := by
  intro s t i hclear hexec hraised
  obtain ⟨noBufOvf, noQOvf⟩ : s.fBufOvf = false ∧ s.fQOvf = false := Bool.or_eq_false_iff.mp hclear
  cases exec_raises hexec hclear hraised with
  | byteTooMany more d reading tooLong =>
    obtain ⟨c, hcap, hlt⟩ := bufferOverflows_true.mp tooLong
    exact ⟨rfl, rfl, rfl, rfl, rfl, rfl, reading, .inl ⟨rfl, noQOvf, c, hcap, .inl ⟨more, d, rfl, hlt⟩⟩⟩
  | chunkTooLong bs reading tooLong =>
    obtain ⟨c, hcap, hlt⟩ := bufferOverflows_true.mp tooLong
    exact ⟨rfl, rfl, rfl, rfl, rfl, rfl, reading, .inl ⟨rfl, noQOvf, c, hcap, .inr ⟨bs, rfl, hlt⟩⟩⟩
  | queueFull reading nonEmpty full =>
    exact ⟨rfl, rfl, rfl, rfl, rfl, rfl, reading, .inr ⟨rfl, noBufOvf, rfl, nonEmpty, queueFull_true.mp full⟩⟩

end Sys2Proof.Machine

/-!
PROOFS. The family 70_reset_and_hazards: reset in any state (R142), and the run that has ended (R145).
-/

namespace Sys2Proof.Machine

/-! ### Reset -/

theorem step_reset {s : State} {rest : List Input} (h : s.trace = .reset :: rest) :
    step s = .next (s.withTrace rest).afterReset := step_cons h

theorem State.afterReset_eq (s : State) :
    s.afterReset = { State.reset with cfg := s.cfg, trace := s.trace, log := s.log ++ [.wasReset] } := rfl

/-- Settles O49. -/
theorem resetWorksInEveryState : Obligations.ResetWorksInEveryState := by
  intro s rest htrace
  rw [step_reset htrace, State.afterReset_eq]
  rfl

/-! ### The CONSUMER's steps still to come -/

/-- Whether the CONSUMER is done depends on the parameters, the inputs still to come and the frame last popped only. -/
theorem consumerDone_congr {s t : State} (hc : t.cfg = s.cfg) (ht : t.trace = s.trace)
    (hp : lastPopped t.log = lastPopped s.log) : consumerDone t = consumerDone s := by
  simp only [consumerDone, ht, isConsumerStep_congr hc hp]

/-- Before an input other than reset the CONSUMER is done iff that input is none of its steps and it is done after. -/
theorem consumerDone_cons_iff {s : State} {x : Input} {rest : List Input} (htrace : s.trace = x :: rest)
    (hreset : x ≠ .reset) :
    consumerDone s = true ↔ isConsumerStep s x = false ∧ consumerDone (s.withTrace rest) = true := by
  have hsteps : ∀ y, isConsumerStep (s.withTrace rest) y = isConsumerStep s y := isConsumerStep_congr rfl rfl
  simp [consumerDone, htrace, hreset, hsteps]

theorem agentOf_ne_consumer {s : State} {c : Code} {i : Instr} (hdec : decode s.cfg c = .ok i)
    (hstep : isConsumerStep s (.operation c) = false) : agentOf i ≠ some .consumer := by
  simpa [isConsumerStep, hdec] using hstep

/-! ### What still happens after the halt -/

/-- The changes a halted block can undergo when neither the CONSUMER nor reset acts. -/
inductive QuietChange (s : State) : State → Prop where
  | same : QuietChange s s
  | refuse : QuietChange s s.markRefused
  | requestStop : QuietChange s s.requestStop
  /-- An output that R145's observable outcome leaves out. -/
  | output (e : Event) (unobserved : ∀ acc, observeStep acc e = acc) : QuietChange s (s.emit e)

/-- With HALTED no step of the FA or the CHANNEL is left, so only STOP, CMD and a refusal complete. -/
theorem exec_quiet {i : Instr} {s t : State} (halted : s.phase = .halted) (hagent : agentOf i ≠ some .consumer)
    (h : exec i s = .next t) : QuietChange s t := by
  obtain rfl | ⟨hi, lo, -, rfl⟩ | ⟨-, hop⟩ := exec_next h
  · exact .refuse
  · exact .output _ fun _ => rfl
  · obtain ⟨_, _, -, reading, -⟩ | ⟨_, -, -, reading, -⟩ | ⟨-, -, reading, -⟩ | ⟨-, rfl⟩ | ⟨rfl, -⟩ |
      ⟨-, -, atTop, -⟩ | ⟨-, -, atTop, -⟩ | ⟨_, rfl, -⟩ | ⟨_, rfl, -⟩ | ⟨_, _, hrow, -⟩ := hop
    · simp [halted] at reading
    · simp [halted] at reading
    · simp [halted] at reading
    · exact .requestStop
    · exact absurd rfl hagent
    · simp [halted] at atTop
    · simp [halted] at atTop
    · exact absurd rfl hagent
    · exact absurd rfl hagent
    · obtain rfl | rfl | rfl | rfl | rfl := hrow <;> exact absurd rfl hagent

theorem runInput_quiet {x : Input} {s t : State} (halted : s.phase = .halted) (hstep : isConsumerStep s x = false)
    (hreset : x ≠ .reset) (h : runInput x s = .next t) : QuietChange s t := by
  obtain ⟨c, i, rfl, hdec, hx⟩ | ⟨rfl, ⟨F, hlast, -⟩ | rfl⟩ | ⟨v, -, ⟨-, -, rfl⟩ | ⟨-, rfl⟩⟩ | ⟨-, rfl⟩ | ⟨rfl, -⟩ :=
    runInput_next h
  · exact exec_quiet halted (agentOf_ne_consumer hdec hstep) hx
  · simp [isConsumerStep, hlast] at hstep
  · exact .same
  · exact .requestStop
  · exact .same
  · exact .output _ fun _ => rfl
  · exact absurd rfl hreset

/-- What a quiet change keeps: all that R145 asks of an ended run but the refusal mark. -/
structure KeepsRun (s t : State) : Prop where
  phase : t.phase = s.phase
  buf : t.buf = s.buf
  q : t.q = s.q
  fBufOvf : t.fBufOvf = s.fBufOvf
  fQOvf : t.fQOvf = s.fQOvf
  observed : observed t = observed s
  consumerDone : consumerDone t = consumerDone s

/-- A POP is observed, so an event that is not observed is no POP. -/
theorem ne_popped_of_unobserved {e : Event} (unobserved : ∀ acc, observeStep acc e = acc) (r : Option ByteString) :
    e ≠ .popped r := by
  rintro rfl
  simpa [observeStep] using unobserved ([], [])

theorem observed_emit {s : State} {e : Event} (unobserved : ∀ acc, observeStep acc e = acc) :
    observed (s.emit e) = observed s := by
  simp [observed, unobserved]

theorem QuietChange.keepsRun {s t : State} (hc : QuietChange s t) : KeepsRun s t := by
  cases hc with
  | same | refuse | requestStop => exact ⟨rfl, rfl, rfl, rfl, rfl, rfl, rfl⟩
  | output e unobserved =>
    have hlast : lastPopped (s.emit e).log = lastPopped s.log :=
      lastPopped_append_other s.log (ne_popped_of_unobserved unobserved)
    exact ⟨rfl, rfl, rfl, rfl, rfl, observed_emit unobserved, consumerDone_congr rfl rfl hlast⟩

theorem QuietChange.refused_eq_or {s t : State} (hc : QuietChange s t) :
    t.refused = s.refused ∨ t.refused = true := by
  cases hc <;> simp

/-! ### The ended run -/

theorem Inv.outside_of_halted {s : State} (h : Inv s) (halted : s.phase = .halted) : s.midRead = false :=
  Bool.eq_false_iff.mpr fun hmid => by simpa [halted] using h.midReadOutstanding hmid

/-- Past its last input an ended run stays as it is (log 7). -/
theorem step_of_halted_of_nil {s : State} (h : Inv s) (halted : s.phase = .halted) (htrace : s.trace = []) :
    step s = .next s := by
  simp [step_nil htrace, endOfTrace, h.outside_of_halted halted]

/-- A step of an ended run other than reset takes the next input and makes a quiet change; the CONSUMER is still done
when the input is taken. -/
theorem Ended.step_quiet {s t : State} (hend : Ended s) (hinv : Inv s) (hstep : step s = .next t)
    (hreset : ∀ rest, s.trace ≠ .reset :: rest) :
    ∃ rest, QuietChange (s.withTrace rest) t ∧ consumerDone (s.withTrace rest) = true := by
  obtain ⟨halted, -, done⟩ := hend
  cases htrace : s.trace with
  | nil =>
    obtain rfl : s = t := by simpa [step_of_halted_of_nil hinv halted htrace] using hstep
    exact ⟨s.trace, .same, done⟩
  | cons x rest =>
    have hx : x ≠ .reset := by
      rintro rfl
      exact hreset rest htrace
    obtain ⟨notConsumer, doneAfter⟩ := (consumerDone_cons_iff htrace hx).mp done
    rw [step_cons htrace] at hstep
    exact ⟨rest, runInput_quiet halted ((isConsumerStep_congr rfl rfl x).trans notConsumer) hx hstep, doneAfter⟩

/-- Settles O15: HALTED leaves quiet changes only, and those keep all but the refusal mark. -/
theorem endedRunStays : Obligations.EndedRunStays := by
  intro s hinv hend
  have ⟨halted, ⟨noBufOvf, noQOvf, notRefused⟩, _⟩ := hend
  refine ⟨hinv.haltedEmpty halted, step_of_halted_of_nil hinv halted, fun t hstep hreset => ?_⟩
  obtain ⟨rest, hquiet, done⟩ := hend.step_quiet hinv hstep hreset
  have hkeeps := hquiet.keepsRun
  have haltedAfter : t.phase = .halted := hkeeps.phase.trans halted
  refine ⟨hkeeps.observed, hkeeps.q, hkeeps.buf.trans (hinv.haltedEmpty halted), haltedAfter, ?_⟩
  refine hquiet.refused_eq_or.imp_left fun hrefused => ⟨haltedAfter, ⟨?_, ?_, ?_⟩, hkeeps.consumerDone.trans done⟩
  · exact hkeeps.fBufOvf.trans noBufOvf
  · exact hkeeps.fQOvf.trans noQOvf
  · exact hrefused.trans notRefused

end Sys2Proof.Machine
